-- ==== Sys2Proof/Word.lean ====
section
/-! DEFINITION. The word types of the machine (spec/00_scope.md R5, R7, R8). All values are unsigned. -/

namespace Sys2Proof

/-- A memory byte, a V register, a timer, the field NN. -/
abbrev Byte := BitVec 8

/-- `pc`, `I`, a stack entry, an instruction word. -/
abbrev Word := BitVec 16

/-- The 12-bit address field NNN. -/
abbrev Addr := BitVec 12

/-- A 4-bit field used as a number: the sprite height N. -/
abbrev Nibble := BitVec 4

/-- The number of a general register V0 to VF, as the 4-bit fields X and Y name it: always in range (R20). -/
abbrev Reg := Fin 16

end Sys2Proof
end

