-- ==== Sys2Proof/Decode.lean ====
section
/-! DEFINITION. The decoder, total on every word and rejecting by name (spec/30_encoding.md R93 to R97,
spec/40_cycle.md R123), and after it the encoder (R91, R96, R102). -/

namespace Sys2Proof

/-- The unknown opcodes of R97, by its six groups. -/
inductive UnknownOpcode where
  /-- R97 (a): a word of the 0 group other than 0x00E0 and 0x00EE. -/
  | group0
  /-- R97 (b): 5XYn with n not 0. -/
  | group5
  /-- R97 (c): 8XYn with n in 8, 9, A, B, C, D, F. -/
  | group8
  /-- R97 (d): 9XYn with n not 0. -/
  | group9
  /-- R97 (e): EXnn with nn not 9E or A1. -/
  | groupE
  /-- R97 (f): FXnn with nn none of the nine listed. -/
  | groupF
  deriving DecidableEq, Repr

/-- What decoding a word gives: an instruction, or the group of R97 that rejects it. -/
abbrev Decoded := Except UnknownOpcode Instr

/-! ### The fields of a word (spec/00_scope.md R7, R8) -/

/-- `op[15:12]`, the high nibble. -/
def opHigh (w : Word) : BitVec 4 := w.extractLsb' 12 4

/-- `X = op[11:8]`, as a register number. -/
def fieldX (w : Word) : Reg := (w.extractLsb' 8 4).toFin

/-- `Y = op[7:4]`, as a register number. -/
def fieldY (w : Word) : Reg := (w.extractLsb' 4 4).toFin

/-- `N = op[3:0]`. -/
def fieldN (w : Word) : Nibble := w.extractLsb' 0 4

/-- `NN = op[7:0]`. -/
def fieldNN (w : Word) : Byte := w.extractLsb' 0 8

/-- `NNN = op[11:0]`. -/
def fieldNNN (w : Word) : Addr := w.extractLsb' 0 12

/-! ### Decoding -/

/-- The 0 group, matched on all 16 bits (R94). -/
def decode0 (w : Word) : Decoded :=
  if w = 0x00E0#16 then .ok .cls
  else if w = 0x00EE#16 then .ok .ret
  else .error .group0

/-- The 8 group, by the low nibble (R95). -/
def decode8 (w : Word) : Decoded :=
  match fieldN w with
  | 0x0#4 => .ok (.ldReg (fieldX w) (fieldY w))
  | 0x1#4 => .ok (.orReg (fieldX w) (fieldY w))
  | 0x2#4 => .ok (.andReg (fieldX w) (fieldY w))
  | 0x3#4 => .ok (.xorReg (fieldX w) (fieldY w))
  | 0x4#4 => .ok (.addReg (fieldX w) (fieldY w))
  | 0x5#4 => .ok (.sub (fieldX w) (fieldY w))
  | 0x6#4 => .ok (.shr (fieldX w) (fieldY w))
  | 0x7#4 => .ok (.subn (fieldX w) (fieldY w))
  | 0xE#4 => .ok (.shl (fieldX w) (fieldY w))
  | _ => .error .group8

/-- The E group, by the low byte (R94). -/
def decodeE (w : Word) : Decoded :=
  match fieldNN w with
  | 0x9E#8 => .ok (.skp (fieldX w))
  | 0xA1#8 => .ok (.sknp (fieldX w))
  | _ => .error .groupE

/-- The F group, by the low byte (R94). -/
def decodeF (w : Word) : Decoded :=
  match fieldNN w with
  | 0x07#8 => .ok (.ldFromDT (fieldX w))
  | 0x0A#8 => .ok (.ldKey (fieldX w))
  | 0x15#8 => .ok (.ldDT (fieldX w))
  | 0x18#8 => .ok (.ldST (fieldX w))
  | 0x1E#8 => .ok (.addI (fieldX w))
  | 0x29#8 => .ok (.ldF (fieldX w))
  | 0x33#8 => .ok (.ldB (fieldX w))
  | 0x55#8 => .ok (.storeRegs (fieldX w))
  | 0x65#8 => .ok (.loadRegs (fieldX w))
  | _ => .error .groupF

/-- `Decode(op)` of R123: dispatch on the high nibble, then on the low nibble or the low byte (R93). The last arm is the high
nibble 0xF. -/
def decode (w : Word) : Decoded :=
  match opHigh w with
  | 0x0#4 => decode0 w
  | 0x1#4 => .ok (.jp (fieldNNN w))
  | 0x2#4 => .ok (.call (fieldNNN w))
  | 0x3#4 => .ok (.seImm (fieldX w) (fieldNN w))
  | 0x4#4 => .ok (.sneImm (fieldX w) (fieldNN w))
  | 0x5#4 => if fieldN w = 0x0#4 then .ok (.seReg (fieldX w) (fieldY w)) else .error .group5
  | 0x6#4 => .ok (.ldImm (fieldX w) (fieldNN w))
  | 0x7#4 => .ok (.addImm (fieldX w) (fieldNN w))
  | 0x8#4 => decode8 w
  | 0x9#4 => if fieldN w = 0x0#4 then .ok (.sneReg (fieldX w) (fieldY w)) else .error .group9
  | 0xA#4 => .ok (.ldI (fieldNNN w))
  | 0xB#4 => .ok (.jpV0 (fieldNNN w))
  | 0xC#4 => .ok (.rnd (fieldX w) (fieldNN w))
  | 0xD#4 => .ok (.drw (fieldX w) (fieldY w) (fieldN w))
  | 0xE#4 => decodeE w
  | _ => decodeF w

/-- The instruction word of two bytes, the one at the lower address in bits 15:8 (spec/20_memory.md R60). -/
def wordOfBytes (first second : Byte) : Word := first ++ second

/-- The decoder on the two bytes of an instruction as memory holds them (R60, R90). -/
def decodeBytes (first second : Byte) : Decoded := decode (wordOfBytes first second)

/-! ### Encoding -/

/-- A register number as its 4-bit field. -/
def regField (x : Reg) : BitVec 4 := BitVec.ofFin x

/-- Format XNN of R91. -/
def encodeXNN (op : BitVec 4) (x : Reg) (nn : Byte) : Word := op ++ (regField x ++ nn)

/-- Formats XYN and XYS of R91, the last nibble being N or the sub-code. -/
def encodeXYN (op : BitVec 4) (x y : Reg) (n : Nibble) : Word := op ++ (regField x ++ (regField y ++ n))

/-- The word of an instruction (R96, R102). Format XSS is format XNN with the sub-code in the low byte. -/
def encode : Instr → Word
  | .cls => 0x00E0#16
  | .ret => 0x00EE#16
  | .jp nnn => 0x1#4 ++ nnn
  | .call nnn => 0x2#4 ++ nnn
  | .seImm x nn => encodeXNN 0x3#4 x nn
  | .sneImm x nn => encodeXNN 0x4#4 x nn
  | .seReg x y => encodeXYN 0x5#4 x y 0x0#4
  | .ldImm x nn => encodeXNN 0x6#4 x nn
  | .addImm x nn => encodeXNN 0x7#4 x nn
  | .ldReg x y => encodeXYN 0x8#4 x y 0x0#4
  | .orReg x y => encodeXYN 0x8#4 x y 0x1#4
  | .andReg x y => encodeXYN 0x8#4 x y 0x2#4
  | .xorReg x y => encodeXYN 0x8#4 x y 0x3#4
  | .addReg x y => encodeXYN 0x8#4 x y 0x4#4
  | .sub x y => encodeXYN 0x8#4 x y 0x5#4
  | .shr x y => encodeXYN 0x8#4 x y 0x6#4
  | .subn x y => encodeXYN 0x8#4 x y 0x7#4
  | .shl x y => encodeXYN 0x8#4 x y 0xE#4
  | .sneReg x y => encodeXYN 0x9#4 x y 0x0#4
  | .ldI nnn => 0xA#4 ++ nnn
  | .jpV0 nnn => 0xB#4 ++ nnn
  | .rnd x nn => encodeXNN 0xC#4 x nn
  | .drw x y n => encodeXYN 0xD#4 x y n
  | .skp x => encodeXNN 0xE#4 x 0x9E#8
  | .sknp x => encodeXNN 0xE#4 x 0xA1#8
  | .ldFromDT x => encodeXNN 0xF#4 x 0x07#8
  | .ldKey x => encodeXNN 0xF#4 x 0x0A#8
  | .ldDT x => encodeXNN 0xF#4 x 0x15#8
  | .ldST x => encodeXNN 0xF#4 x 0x18#8
  | .addI x => encodeXNN 0xF#4 x 0x1E#8
  | .ldF x => encodeXNN 0xF#4 x 0x29#8
  | .ldB x => encodeXNN 0xF#4 x 0x33#8
  | .storeRegs x => encodeXNN 0xF#4 x 0x55#8
  | .loadRegs x => encodeXNN 0xF#4 x 0x65#8

/-- The byte of a word at its lower address: bits 15:8 (R60). -/
def firstByte (w : Word) : Byte := w.extractLsb' 8 8

/-- The byte of a word at its higher address: bits 7:0 (R60). -/
def secondByte (w : Word) : Byte := w.extractLsb' 0 8

/-! ### The table's numbering of a word -/

/-- A word given as the opcode table numbers it: `nbits` bits of `w`, every bit above them 0. -/
def tableWord (nbits w : Nat) : Word := BitVec.ofNat 16 (w % 2 ^ nbits)

/-- The instruction the decoder reads from a table word laid out in memory, high byte first. -/
def decodeTableWord (nbits w : Nat) : Option Instr :=
  match decodeBytes (firstByte (tableWord nbits w)) (secondByte (tableWord nbits w)) with
  | .ok i => some i
  | .error _ => none

end Sys2Proof
end

