-- ==== Sys2Proof/Config.lean ====
section
/-! DEFINITION. What is fixed for the machine (spec/00_scope.md R5), and the two parameters the spec leaves open (R6): FONT and
`rnd`. -/

namespace Sys2Proof.Config

/-- Memory holds 4096 bytes, addresses 0x000 to 0xFFF (R5, R26). -/
abbrev memSize : Nat := 4096

/-- The program entry and load address (R5, R261). -/
abbrev programEntry : Nat := 0x200

/-- The longest program image in bytes, 4096 - 512 (R5, R267). -/
abbrev maxImage : Nat := 3584

/-- The number of call stack entries (R5, R25). -/
abbrev stackDepth : Nat := 16

/-- The number of bytes of the font table, at 0x000 to 0x04F (R5, R27). -/
abbrev fontSize : Nat := 80

/-- The parameter `FONT[0..79]` (R6, D17). DESIGN CHOICE of its form (log 2), safe: it has no body, so nothing constrains its bytes, and a claim
holds for every font. A claim that depends on glyph shapes takes the bytes as a premise (R27; `Machine.conventionalFont`). -/
opaque font : Vector Byte fontSize

/-- DESIGN CHOICE (log 3), safe. The free input `rnd` of CXNN (R171, R35): the n-th value drawn. It has no body, so nothing
constrains it, and a claim holds for every value of every draw. -/
opaque freeRnd : Nat → Byte

end Sys2Proof.Config
end

