-- ==== Sys2Proof/Machine/State.lean ====
section
/-! DEFINITION. The state of the machine between two cycles (spec/10_state.md R20 to R35) as plain data, its reset value (R36),
and the reasons a step could stop. -/

namespace Sys2Proof.Machine

/-- The listed bytes of `mem`: (address, byte) pairs, addresses strictly rising, no entry equal to what the unlisted address
reads as (`Memory.read` and `Memory.wf`, Machine/Ops.lean). -/
abbrev Memory := List Host.Cell

/-- The framebuffer's 2048 cells as 32 rows; bit x of row y is the cell of column x, `fb[x + 64*y]` (R30; log 6). -/
abbrev Screen := Vector (BitVec 64) 32

/-- All the state there is (R34, R35), and two fields of the model's own, the last two. -/
structure State where
  /-- V0 to VF (R20); VF is `V[15]` (R21). -/
  V : Vector Byte 16
  /-- The index register (R24). -/
  I : Word
  /-- The program counter (R22). -/
  pc : Word
  /-- The number of stack entries in use, 0 to 16 (R25, D3; log 6). -/
  sp : Fin 17
  /-- The call stack (R25). -/
  stack : Vector Word 16
  /-- The 4096 bytes of memory (R26). -/
  mem : Memory
  /-- The delay timer (R28). -/
  dt : Byte
  /-- The sound timer (R29). -/
  st : Byte
  /-- The framebuffer (R30). -/
  fb : Screen
  /-- The 16 key latches; bit k is the latch of key k (R31; log 6). -/
  key : BitVec 16
  /-- The redraw flag (R32). -/
  redraw : Bool
  /-- A fault has happened (R33). -/
  halted : Bool
  /-- The number of the fault, 0 for none (R33, R232). -/
  faultCode : BitVec 3
  /-- The value recorded with the fault (R33, R232). -/
  faultInfo : Word
  /-- The model's own: the load port is open, that is neither a load nor a cycle has happened since reset
  (spec/70_reset_and_hazards.md R268). DEDUCED (log 4), safe. -/
  loadOpen : Bool
  /-- The model's own: how many values of `rnd` have been drawn. DESIGN CHOICE (log 3), safe. -/
  draws : Nat
  deriving DecidableEq, Repr

/-- Why a step stops with `Outcome.fault`: never. Each fault of spec/60_exceptions.md R232 has its whole effect described by
R231 and is taken as a next state (`State.raise`), so nothing raises a constructor of this type, and there is none (log 1; safe). -/
inductive Fault where
  deriving DecidableEq, Repr

/-- Why a step is refused. -/
inductive Refusal where
  /-- Raised by an arm of `exec` whose instruction has no meaning yet, by its mnemonic; safe. No arm of this model raises it. -/
  | notModelled (mnemonic : String)
  deriving DecidableEq, Repr

/-- The state after reset (R36). Memory lists nothing: every byte reads as `initialByte`, that is FONT (`Config.font`) and zeros
(R26, R27).
The last two fields are the model's own: the load port is open (log 4), no value has been drawn (log 3). -/
def State.reset : State where
  V := Vector.replicate 16 0#8
  I := 0#16
  pc := 0x200#16
  sp := 0
  stack := Vector.replicate 16 0#16
  mem := []
  dt := 0#8
  st := 0#8
  fb := Vector.replicate 32 0#64
  key := 0#16
  redraw := false
  halted := false
  faultCode := 0#3
  faultInfo := 0#16
  loadOpen := true
  draws := 0

end Sys2Proof.Machine
end

