-- ==== Sys2Proof/Machine/Ops.lean ====
section
/-! DEFINITION. The named operations over memory, registers, the stack and the program counter, and the taking of a fault
(spec/00_scope.md R9 to R11, spec/10_state.md, spec/20_memory.md, spec/60_exceptions.md R231, R232). -/

namespace Sys2Proof.Machine

/-! ### What memory holds at reset -/

/-- Glyphs 0 to 7 of the conventional FONT (R27). -/
def glyphs0to7 : List Byte :=
  [0xF0#8, 0x90#8, 0x90#8, 0x90#8, 0xF0#8] ++ [0x20#8, 0x60#8, 0x20#8, 0x20#8, 0x70#8] ++
  [0xF0#8, 0x10#8, 0xF0#8, 0x80#8, 0xF0#8] ++ [0xF0#8, 0x10#8, 0xF0#8, 0x10#8, 0xF0#8] ++
  [0x90#8, 0x90#8, 0xF0#8, 0x10#8, 0x10#8] ++ [0xF0#8, 0x80#8, 0xF0#8, 0x10#8, 0xF0#8] ++
  [0xF0#8, 0x80#8, 0xF0#8, 0x90#8, 0xF0#8] ++ [0xF0#8, 0x10#8, 0x20#8, 0x40#8, 0x40#8]

/-- Glyphs 8 to F of the conventional FONT (R27). -/
def glyphs8toF : List Byte :=
  [0xF0#8, 0x90#8, 0xF0#8, 0x90#8, 0xF0#8] ++ [0xF0#8, 0x90#8, 0xF0#8, 0x10#8, 0xF0#8] ++
  [0xF0#8, 0x90#8, 0xF0#8, 0x90#8, 0x90#8] ++ [0xE0#8, 0x90#8, 0xE0#8, 0x90#8, 0xE0#8] ++
  [0xF0#8, 0x80#8, 0x80#8, 0x80#8, 0xF0#8] ++ [0xE0#8, 0x90#8, 0x90#8, 0x90#8, 0xE0#8] ++
  [0xF0#8, 0x80#8, 0xF0#8, 0x80#8, 0xF0#8] ++ [0xF0#8, 0x80#8, 0xF0#8, 0x80#8, 0x80#8]

/-- The conventional value of FONT, the table of R27, which the source does not give. No operation reads it: a claim about glyph
shapes takes `Config.font = conventionalFont` as a premise (R27; log 2). -/
def conventionalFont : Vector Byte Config.fontSize := ⟨(glyphs0to7 ++ glyphs8toF).toArray, by decide⟩

/-- What an address reads as when nothing has been written there: FONT below 0x050, zero above (R26, R27, R67). -/
def initialByte (a : Nat) : Byte := if h : a < Config.fontSize then Config.font[a] else 0#8

/-! ### Memory: one byte at an address (R10, R61, R62) -/

/-- `mem[a]`. -/
def Memory.read : Memory → Nat → Byte
  | [], a => initialByte a
  | (k, b) :: m, a => if k = a then b else Memory.read m a

/-- Lists the byte `b` at `a`, keeping addresses rising. -/
def Memory.insert : Memory → Nat → Byte → Memory
  | [], a, b => [(a, b)]
  | (k, c) :: m, a, b =>
    if a < k then (a, b) :: (k, c) :: m
    else if a = k then (a, b) :: m
    else (k, c) :: Memory.insert m a b

/-- Takes every entry of `a` off the list. -/
def Memory.erase : Memory → Nat → Memory
  | [], _ => []
  | (k, c) :: m, a => if k = a then Memory.erase m a else (k, c) :: Memory.erase m a

/-- `mem[a] <- b`, in canonical form. There is no address above 0xFFF to write (R26): every meaning checks its range first
(R64), and a write there changes nothing (log 13). -/
def Memory.write (m : Memory) (a : Nat) (b : Byte) : Memory :=
  if a < Config.memSize then
    if b = initialByte a then Memory.erase m a else Memory.insert m a b
  else m

/-- The canonical form: addresses exist and rise strictly, no entry equals what the unlisted address reads as. -/
def Memory.wf : Memory → Bool
  | [] => true
  | (k, b) :: m => decide (k < Config.memSize) && decide (b ≠ initialByte k) && m.all (fun c => decide (k < c.1)) && Memory.wf m

/-- The `n` bytes at `a`, `a + 1`, ... (R61). -/
def Memory.readBytes (m : Memory) (a : Nat) : Nat → List Byte
  | 0 => []
  | n + 1 => m.read a :: Memory.readBytes m (a + 1) n

/-- Stores the bytes at `a`, `a + 1`, ... in this order (R61). -/
def Memory.writeBytes (m : Memory) (a : Nat) : List Byte → Memory
  | [] => m
  | b :: bs => Memory.writeBytes (m.write a b) (a + 1) bs

/-! ### General registers (R9, R20) -/

/-- `V[x]`. -/
def State.reg (s : State) (x : Reg) : Byte := s.V[x.val]'x.isLt

/-- `V[x] <- b`. -/
def State.setReg (s : State) (x : Reg) (b : Byte) : State := { s with V := s.V.set x.val b x.isLt }

/-- The number of VF, the flag register (R21). -/
abbrev VF : Reg := 15

/-- `V[k], V[k+1], ... <- bs` in this order (R185). -/
def setRegBlock (V : Vector Byte 16) (k : Nat) : List Byte → Vector Byte 16
  | [] => V
  | b :: bs => setRegBlock (V.setIfInBounds k b) (k + 1) bs

/-! ### Whole parts -/

/-- The register file becomes `V`. -/
def State.setV (s : State) (V : Vector Byte 16) : State := { s with V := V }

/-- `I <- w`. -/
def State.setI (s : State) (w : Word) : State := { s with I := w }

/-- Memory becomes `m`. -/
def State.setMem (s : State) (m : Memory) : State := { s with mem := m }

/-- `dt <- b`. -/
def State.setDT (s : State) (b : Byte) : State := { s with dt := b }

/-- `st <- b`. -/
def State.setST (s : State) (b : Byte) : State := { s with st := b }

/-- The framebuffer becomes `f`. -/
def State.setFb (s : State) (f : Screen) : State := { s with fb := f }

/-- `redraw <- b`. -/
def State.setRedraw (s : State) (b : Bool) : State := { s with redraw := b }

/-! ### Program counter -/

/-- `pc <- pc + k`, a 16-bit sum (R23; log 7). -/
def State.advance (s : State) (k : Nat) : State := { s with pc := s.pc + BitVec.ofNat 16 k }

/-- `pc <- target` (R11). -/
def State.jump (s : State) (target : Word) : State := { s with pc := target }

/-! ### Call stack (R25) -/

/-- A push: writes `stack[sp]`, then adds 1 to `sp`; none when 16 entries are in use. -/
def State.push (s : State) (w : Word) : Option State :=
  if h : s.sp.val < 16 then
    some { s with stack := s.stack.set s.sp.val w h, sp := ⟨s.sp.val + 1, by omega⟩ }
  else none

/-- A pop: subtracts 1 from `sp`, then reads `stack[sp]`, which keeps its content; none when no entry is in use. -/
def State.pop (s : State) : Option (Word × State) :=
  if h : 0 < s.sp.val then
    some (s.stack[s.sp.val - 1]'(by omega), { s with sp := ⟨s.sp.val - 1, by omega⟩ })
  else none

/-! ### Taking a fault. There is no return from one but reset (R241). -/

/-- The five faults of R232. -/
inductive FaultKind where
  | fetchRange
  | memRange
  | stackOverflow
  | stackUnderflow
  | keyRange
  deriving DecidableEq, Repr

/-- The number of a fault in `fault_code` (R232). -/
def FaultKind.code : FaultKind → BitVec 3
  | .fetchRange => 1#3
  | .memRange => 2#3
  | .stackOverflow => 3#3
  | .stackUnderflow => 4#3
  | .keyRange => 5#3

/-- The state with the fault recorded and nothing else changed (R231 (b)). -/
def State.haltWith (s : State) (code : BitVec 3) (info : Word) : State :=
  { s with halted := true, faultCode := code, faultInfo := info }

/-- `raise Fault(kind, info)` (R11, R231): the core halts with the fault recorded; a next state (log 1). The cycle undoes its
own redraw reset and ticks nothing (`cycle`, Machine/Cycle.lean). -/
def State.raise (s : State) (kind : FaultKind) (info : Word) : Host.Outcome State Fault Refusal :=
  .next (s.haltWith kind.code info)

end Sys2Proof.Machine
end

