-- ==== Sys2Proof/Machine/Flags.lean ====
section
/-! DEFINITION. The values the flag writers store in VF (spec/10_state.md R21): exactly 0 or 1. -/

namespace Sys2Proof.Machine

/-- `1 if c else 0`. -/
def flag (c : Bool) : Byte := if c then 1#8 else 0#8

/-- 8XY4: the exact sum is above 255 (R166). -/
def carryFlag (a b : Byte) : Byte := flag (decide (a.toNat + b.toNat > 255))

/-- 8XY5, 8XY7: no borrow in `a - b` (R167, R169). -/
def notBorrowFlag (a b : Byte) : Byte := flag (decide (a.toNat ≥ b.toNat))

/-- 8XY6: the bit a right shift loses (R168). -/
def lowBitFlag (a : Byte) : Byte := a &&& 1#8

/-- 8XYE: the bit a left shift loses (R170). -/
def highBitFlag (a : Byte) : Byte := a >>> 7

/-- FX1E: the exact sum is above 0xFFF (R181). -/
def indexFlag (i : Word) (a : Byte) : Byte := flag (decide (i.toNat + a.toNat > 0xFFF))

/-- DXYN: some plotted pixel went from on to off (R201). -/
def collisionFlag (hit : Bool) : Byte := flag hit

end Sys2Proof.Machine
end

