-- ==== Sys2Proof/Machine/Operands.lean ====
section
/-! DEFINITION. The operand forms: immediates (spec/30_encoding.md R92), effective addresses and their range (spec/20_memory.md
R64, R69), register blocks, skips, the font address, decimal digits, the key scan. -/

namespace Sys2Proof.Machine

/-- NNN as a 16-bit value: `zext_16(NNN)` (R92). -/
def zextAddr (nnn : Addr) : Word := nnn.zeroExtend 16

/-- An 8-bit value as a 16-bit one: `zext_16`. -/
def zextByte (b : Byte) : Word := b.zeroExtend 16

/-- `pc <- pc + 4` when the condition holds, else `pc <- pc + 2` (R23). -/
def State.skipIf (s : State) (c : Bool) : State := s.advance (if c then 4 else 2)

/-- The address `I` as an unbounded natural (R64). -/
def State.base (s : State) : Nat := s.I.toNat

/-- The `n` bytes at `I` all lie in 0x000 to 0xFFF: no access at all, or a last byte address not above 0xFFF (R64). -/
def State.accessFits (s : State) (n : Nat) : Bool := n == 0 || decide (s.base + n - 1 ≤ 0xFFF)

/-- `V[0..x]`, the block FX55 stores (R184). -/
def State.regBlock (s : State) (x : Reg) : List Byte := s.V.toList.take (x.val + 1)

/-- The glyph address `V * 5` of FX29, the whole byte multiplied (R182). -/
def glyphAddress (b : Byte) : Word := BitVec.ofNat 16 (b.toNat * 5)

/-- Hundreds, tens, ones (R183). -/
def decimalDigits (b : Byte) : List Byte :=
  [BitVec.ofNat 8 (b.toNat / 100), BitVec.ofNat 8 (b.toNat / 10 % 10), BitVec.ofNat 8 (b.toNat % 10)]

/-- `key[k] = 1` (R31). -/
def State.keyDown (s : State) (k : Nat) : Bool := s.key.getLsbD k

/-- The scan of FX0A over keys 0 to n-1 in rising order, a later key overwriting an earlier one (R212). -/
def State.scanKeys (s : State) : Nat → Option Nat
  | 0 => none
  | k + 1 => if s.keyDown k then some k else State.scanKeys s k

/-- The highest key down, if any (R212). -/
def State.highestKey (s : State) : Option Nat := s.scanKeys 16

end Sys2Proof.Machine
end

