-- ==== Sys2Proof/Machine/Alu.lean ====
section
/-! DEFINITION. The register load, arithmetic and logic instructions (spec/42_alu.md R160 to R172). -/

namespace Sys2Proof.Machine

/-- `V[x] <- b; pc <- pc + 2`. -/
def State.load (s : State) (x : Reg) (b : Byte) : State := (s.setReg x b).advance 2

/-- A flag-writing instruction (R172): VF first, then `V[x] <- op V[x] V[y]` from the registers as they are after that write. -/
def State.flagThen (s : State) (f : Byte) (op : Byte → Byte → Byte) (x y : Reg) : State :=
  (s.setReg VF f).load x (op ((s.setReg VF f).reg x) ((s.setReg VF f).reg y))

/-- 6XNN `LD Vx, nn` (R160). -/
def execLdImm (x : Reg) (nn : Byte) (s : State) : Host.Outcome State Fault Refusal := .next (s.load x nn)

/-- 7XNN `ADD Vx, nn` (R161): no flag. -/
def execAddImm (x : Reg) (nn : Byte) (s : State) : Host.Outcome State Fault Refusal := .next (s.load x (s.reg x + nn))

/-- 8XY0 `LD Vx, Vy` (R162). -/
def execLdReg (x y : Reg) (s : State) : Host.Outcome State Fault Refusal := .next (s.load x (s.reg y))

/-- 8XY1 `OR Vx, Vy` (R163). -/
def execOr (x y : Reg) (s : State) : Host.Outcome State Fault Refusal := .next (s.load x (s.reg x ||| s.reg y))

/-- 8XY2 `AND Vx, Vy` (R164). -/
def execAnd (x y : Reg) (s : State) : Host.Outcome State Fault Refusal := .next (s.load x (s.reg x &&& s.reg y))

/-- 8XY3 `XOR Vx, Vy` (R165). -/
def execXor (x y : Reg) (s : State) : Host.Outcome State Fault Refusal := .next (s.load x (s.reg x ^^^ s.reg y))

/-- 8XY4 `ADD Vx, Vy` (R166). -/
def execAddReg (x y : Reg) (s : State) : Host.Outcome State Fault Refusal :=
  .next (s.flagThen (carryFlag (s.reg x) (s.reg y)) (fun a b => a + b) x y)

/-- 8XY5 `SUB Vx, Vy` (R167). -/
def execSub (x y : Reg) (s : State) : Host.Outcome State Fault Refusal :=
  .next (s.flagThen (notBorrowFlag (s.reg x) (s.reg y)) (fun a b => a - b) x y)

/-- 8XY6 `SHR Vx` (R168): `y` is not used (R98). -/
def execShr (x _y : Reg) (s : State) : Host.Outcome State Fault Refusal :=
  .next (s.flagThen (lowBitFlag (s.reg x)) (fun a _ => a >>> 1) x x)

/-- 8XY7 `SUBN Vx, Vy` (R169). -/
def execSubn (x y : Reg) (s : State) : Host.Outcome State Fault Refusal :=
  .next (s.flagThen (notBorrowFlag (s.reg y) (s.reg x)) (fun a b => b - a) x y)

/-- 8XYE `SHL Vx` (R170): `y` is not used (R98). -/
def execShl (x _y : Reg) (s : State) : Host.Outcome State Fault Refusal :=
  .next (s.flagThen (highBitFlag (s.reg x)) (fun a _ => a <<< 1) x x)

/-- CXNN with the draw given: `V[X] <- rnd and NN` (R171). -/
def State.loadMasked (s : State) (d : Byte) (x : Reg) (nn : Byte) : State := s.load x (d &&& nn)

/-- The next value of the free input `rnd` is drawn (log 3). -/
def State.countDraw (s : State) : State := { s with draws := s.draws + 1 }

/-- CXNN `RND Vx, nn` (R171), on the free value of this draw. -/
def execRnd (x : Reg) (nn : Byte) (s : State) : Host.Outcome State Fault Refusal :=
  .next (s.countDraw.loadMasked (Config.freeRnd s.draws) x nn)

end Sys2Proof.Machine
end

