-- ==== Sys2Proof/Machine/ControlFlow.lean ====
section
/-! DEFINITION. The control-flow instructions (spec/41_control_flow.md R140 to R147). -/

namespace Sys2Proof.Machine

/-- 00EE `RET` (R140). -/
def execRet (s : State) : Host.Outcome State Fault Refusal :=
  match s.pop with
  | none => s.raise .stackUnderflow s.pc
  | some (w, t) => .next (t.jump (w + 2#16))

/-- 1NNN `JP nnn` (R141). -/
def execJp (nnn : Addr) (s : State) : Host.Outcome State Fault Refusal := .next (s.jump (zextAddr nnn))

/-- 2NNN `CALL nnn` (R142): the address pushed is the call's own. -/
def execCall (nnn : Addr) (s : State) : Host.Outcome State Fault Refusal :=
  match s.push s.pc with
  | none => s.raise .stackOverflow s.pc
  | some t => .next (t.jump (zextAddr nnn))

/-- 3XNN `SE Vx, nn` (R143). -/
def execSeImm (x : Reg) (nn : Byte) (s : State) : Host.Outcome State Fault Refusal :=
  .next (s.skipIf (s.reg x == nn))

/-- 4XNN `SNE Vx, nn` (R144). -/
def execSneImm (x : Reg) (nn : Byte) (s : State) : Host.Outcome State Fault Refusal :=
  .next (s.skipIf (s.reg x != nn))

/-- 5XY0 `SE Vx, Vy` (R145). -/
def execSeReg (x y : Reg) (s : State) : Host.Outcome State Fault Refusal :=
  .next (s.skipIf (s.reg x == s.reg y))

/-- 9XY0 `SNE Vx, Vy` (R146). -/
def execSneReg (x y : Reg) (s : State) : Host.Outcome State Fault Refusal :=
  .next (s.skipIf (s.reg x != s.reg y))

/-- BNNN `JP V0, nnn` (R147): a 16-bit sum. -/
def execJpV0 (nnn : Addr) (s : State) : Host.Outcome State Fault Refusal :=
  .next (s.jump (zextAddr nnn + zextByte (s.reg 0)))

end Sys2Proof.Machine
end

