-- ==== Sys2Proof/Machine/Display.lean ====
section
/-! DEFINITION. The display instructions and the framebuffer they write (spec/44_display.md R200, R201, spec/10_state.md R30). -/

namespace Sys2Proof.Machine

/-- Row y of the framebuffer, bit x being column x. -/
def Screen.row (f : Screen) (y : Nat) : BitVec 64 := f[y]?.getD 0#64

/-- The cell of column x and row y. -/
def Screen.cell (f : Screen) (x y : Nat) : Bool := (Screen.row f y).getLsbD x

/-- `fb[x + 64*y] <- fb[x + 64*y] xor 1`. -/
def Screen.flip (f : Screen) (x y : Nat) : Screen := f.setIfInBounds y (Screen.row f y ^^^ BitVec.twoPow 64 x)

/-- `fb[k]`, the row-major view of R30. -/
def State.fbCell (s : State) (k : Nat) : Bool := Screen.cell s.fb (k % 64) (k / 64)

/-- Plots one 1 bit: the collision is noted, then the cell flips (R201). -/
def Screen.plot (d : Screen × Bool) (p : Nat × Nat) : Screen × Bool :=
  (Screen.flip d.1 p.1 p.2, d.2 || Screen.cell d.1 p.1 p.2)

/-- The pixels a sprite row plots: the column of each 1 bit, bit 7 leftmost, wrapped modulo 64, at row `py` (R201). -/
def rowPixels (x0 py : Nat) (b : Byte) : List (Nat × Nat) :=
  ((List.range 8).filter (fun col => b.getLsbD (7 - col))).map (fun col => ((x0 + col) % 64, py))

/-- The pixels a sprite plots, its rows from `row` on being the bytes given, each row wrapped modulo 32 (R201). -/
def spritePixels (x0 y0 row : Nat) : List Byte → List (Nat × Nat)
  | [] => []
  | b :: bs => rowPixels x0 ((y0 + row) % 32) b ++ spritePixels x0 y0 (row + 1) bs

/-- Draws a sprite and says whether a pixel went from on to off, accumulated over the whole sprite (R201). -/
def Screen.draw (f : Screen) (x0 y0 : Nat) (rows : List Byte) : Screen × Bool :=
  (spritePixels x0 y0 0 rows).foldl Screen.plot (f, false)

/-- All 2048 cells off (R200). -/
def Screen.clear : Screen := Vector.replicate 32 0#64

/-- `fb <- f; redraw <- 1; pc <- pc + 2`. -/
def State.present (s : State) (f : Screen) : State := ((s.setFb f).setRedraw true).advance 2

/-- 00E0 `CLS` (R200). -/
def execCls (s : State) : Host.Outcome State Fault Refusal := .next (s.present Screen.clear)

/-- DXYN `DRW Vx, Vy, n` (R201): the coordinates are read before VF is written. -/
def execDrw (x y : Reg) (n : Nibble) (s : State) : Host.Outcome State Fault Refusal :=
  if s.accessFits n.toNat then
    let d := Screen.draw s.fb (s.reg x).toNat (s.reg y).toNat (s.mem.readBytes s.base n.toNat)
    .next ((s.setReg VF (collisionFlag d.2)).present d.1)
  else s.raise .memRange s.I

end Sys2Proof.Machine
end

