-- ==== Sys2Proof/Machine/IndexMemory.lean ====
section
/-! DEFINITION. The index-register and memory instructions (spec/43_index_memory.md R180 to R185). -/

namespace Sys2Proof.Machine

/-- `I <- w; pc <- pc + 2`. -/
def State.loadIndex (s : State) (w : Word) : State := (s.setI w).advance 2

/-- Stores the bytes at `I`, `I + 1`, ... and moves on, or raises MEM_RANGE before any byte is written (R64). -/
def State.storeAtIndex (s : State) (bs : List Byte) : Host.Outcome State Fault Refusal :=
  if s.accessFits bs.length then .next ((s.setMem (s.mem.writeBytes s.base bs)).advance 2)
  else s.raise .memRange s.I

/-- ANNN `LD I, nnn` (R180). -/
def execLdI (nnn : Addr) (s : State) : Host.Outcome State Fault Refusal := .next (s.loadIndex (zextAddr nnn))

/-- FX1E `ADD I, Vx` (R181): VF first, then the 16-bit sum with `V[X]` as it is after that write. -/
def execAddI (x : Reg) (s : State) : Host.Outcome State Fault Refusal :=
  .next ((s.setReg VF (indexFlag s.I (s.reg x))).loadIndex
    (s.I + zextByte ((s.setReg VF (indexFlag s.I (s.reg x))).reg x)))

/-- FX29 `LD F, Vx` (R182). -/
def execLdF (x : Reg) (s : State) : Host.Outcome State Fault Refusal := .next (s.loadIndex (glyphAddress (s.reg x)))

/-- FX33 `LD B, Vx` (R183). -/
def execLdB (x : Reg) (s : State) : Host.Outcome State Fault Refusal := s.storeAtIndex (decimalDigits (s.reg x))

/-- FX55 `LD [I], Vx` (R184). -/
def execStoreRegs (x : Reg) (s : State) : Host.Outcome State Fault Refusal := s.storeAtIndex (s.regBlock x)

/-- FX65 `LD Vx, [I]` (R185). -/
def execLoadRegs (x : Reg) (s : State) : Host.Outcome State Fault Refusal :=
  if s.accessFits (x.val + 1) then
    .next ((s.setV (setRegBlock s.V 0 (s.mem.readBytes s.base (x.val + 1)))).advance 2)
  else s.raise .memRange s.I

end Sys2Proof.Machine
end

