-- ==== Sys2Proof/Machine/KeysTimers.lean ====
section
/-! DEFINITION. The key and timer instructions (spec/45_keys_timers.md R210 to R215), and the timer tick of the cycle
(spec/40_cycle.md R127). -/

namespace Sys2Proof.Machine

/-- Skips when the latch `V[x]` names equals `want`, or raises KEY_RANGE when `V[x]` names none (R210, R211). -/
def State.skipIfKey (s : State) (x : Reg) (want : Bool) : Host.Outcome State Fault Refusal :=
  if (s.reg x).toNat > 15 then s.raise .keyRange (zextByte (s.reg x))
  else .next (s.skipIf (s.keyDown (s.reg x).toNat == want))

/-- EX9E `SKP Vx` (R210). -/
def execSkp (x : Reg) (s : State) : Host.Outcome State Fault Refusal := s.skipIfKey x true

/-- EXA1 `SKNP Vx` (R211). -/
def execSknp (x : Reg) (s : State) : Host.Outcome State Fault Refusal := s.skipIfKey x false

/-- FX07 `LD Vx, DT` (R213): `dt` before this cycle's tick. -/
def execLdFromDT (x : Reg) (s : State) : Host.Outcome State Fault Refusal := .next ((s.setReg x s.dt).advance 2)

/-- FX0A `LD Vx, K` (R212): with no key down the instruction changes nothing and the cycle stalls. -/
def execLdKey (x : Reg) (s : State) : Host.Outcome State Fault Refusal :=
  match s.highestKey with
  | none => .next s
  | some k => .next ((s.setReg x (BitVec.ofNat 8 k)).advance 2)

/-- FX15 `LD DT, Vx` (R214). -/
def execLdDT (x : Reg) (s : State) : Host.Outcome State Fault Refusal := .next ((s.setDT (s.reg x)).advance 2)

/-- FX18 `LD ST, Vx` (R215). -/
def execLdST (x : Reg) (s : State) : Host.Outcome State Fault Refusal := .next ((s.setST (s.reg x)).advance 2)

/-- One count down, floor at zero (R127). -/
def countDown (b : Byte) : Byte := if b = 0#8 then 0#8 else b - 1#8

/-- The timer tick (R127). -/
def State.tick (s : State) : State := (s.setDT (countDown s.dt)).setST (countDown s.st)

/-- The output `tone` (spec/60_exceptions.md R245, R29). -/
def State.tone (s : State) : Bool := s.st != 0#8

end Sys2Proof.Machine
end

