-- ==== Sys2Proof/Machine/Cycle.lean ====
section
/-! DEFINITION. One cycle: fetch, decode, execute, timer tick, and the status it reports (spec/40_cycle.md R120 to R130). -/

namespace Sys2Proof.Machine

/-- The status of a cycle (R128), with its attachments. An output, not state (log 11). -/
inductive Status where
  /-- An instruction executed, and if it was FX0A, a key was down. -/
  | ok
  /-- FX0A executed with no key down. -/
  | stall
  /-- The word matches no row of the opcode map; the word and its address (R126). -/
  | unknownOpcode (op pc : Word)
  /-- A fault was raised, or the core was already halted; `fault_code` and `fault_info`. -/
  | fault (code : BitVec 3) (info : Word)
  deriving DecidableEq, Repr

/-- The two bytes at `pc` can be fetched (R122). -/
def State.canFetch (s : State) : Bool := decide (s.pc.toNat ≤ 0xFFE)

/-- `op = mem[pc] ++ mem[pc+1]` (R60, R122). -/
def State.fetchWord (s : State) : Word := wordOfBytes (s.mem.read s.pc.toNat) (s.mem.read (s.pc.toNat + 1))

/-- The fetch and the decode (R122, R123). -/
def State.fetchDecode (s : State) : Decoded := decodeBytes (s.mem.read s.pc.toNat) (s.mem.read (s.pc.toNat + 1))

/-- A cycle has run: the load port is closed (R268; log 4). -/
def State.closeLoad (s : State) : State := { s with loadOpen := false }

/-- `redraw <- 0` (R125). -/
def State.clearRedraw (s : State) : State := s.setRedraw false

/-- The state in which the execute phase starts. -/
def State.startCycle (s : State) : State := s.closeLoad.clearRedraw

/-- The end of a faulting cycle that began in `s` (R120, R231): `s` with the fault recorded. Nothing else of the cycle takes
effect; a cycle having run, the load port is closed (log 5). -/
def State.faulted (s : State) (code : BitVec 3) (info : Word) : State × Status :=
  (s.closeLoad.haltWith code info, .fault code info)

/-- The status of a cycle that executed `i` without a fault (R120, R128). -/
def okOrStall (i : Instr) (s : State) : Status :=
  if i.waitsForKey && s.highestKey.isNone then .stall else .ok

/-- The end of a cycle that began in `s` and whose execute phase left `t`: a fault undoes all but its record (R231), else the
timers tick (R127). -/
def finish (i : Instr) (s t : State) : State × Status :=
  if t.halted then s.faulted t.faultCode t.faultInfo else (t.tick, okOrStall i s)

/-- `Cycle(rnd)` of R120: the state after it, and its status. -/
def cycle (s : State) : Host.Outcome (State × Status) Fault Refusal :=
  if s.halted then .next (s, .fault s.faultCode s.faultInfo)
  else if s.canFetch then
    match s.fetchDecode with
    | .error _ => .next (s.startCycle.tick, .unknownOpcode s.fetchWord s.pc)
    | .ok i =>
      match exec i s.startCycle with
      | .next t => .next (finish i s t)
      | .fault r => .fault r
      | .refused r => .refused r
  else .next (s.faulted FaultKind.fetchRange.code s.pc)

end Sys2Proof.Machine
end

