-- ==== Sys2Proof/Machine/Step.lean ====
section
/-! DEFINITION. The step: one cycle, its status output dropped (spec/40_cycle.md R120), and the placing of an instruction where
the next step fetches it. -/

namespace Sys2Proof.Machine

/-- One cycle request (R121). -/
def step (s : State) : Host.Outcome State Fault Refusal :=
  match cycle s with
  | .next p => .next p.1
  | .fault r => .fault r
  | .refused r => .refused r

/-- The state with the instruction word `w` at `pc`, high byte first (R60), so that the next step runs it. Where the core is
halted, or `pc` addresses no word, the fetch needs `halted = 0` and `pc = 0x200` as well (log 9, log 12). -/
def State.withFetchWord (s : State) (nbits w : Nat) : State :=
  let pc := if s.pc.toNat ≤ 0xFFE then s.pc else 0x200#16
  let op := tableWord nbits w
  { s with
    pc := pc
    halted := false
    mem := s.mem.writeBytes pc.toNat [firstByte op, secondByte op] }

end Sys2Proof.Machine
end

