-- ==== Sys2Proof/WellFormed.lean ====
section
/-! DEFINITION. What is well formed: an instruction WORD that some row of the opcode map matches (spec/30_encoding.md R94,
R96, written as the map's masks and independently of the decoder), and a program IMAGE that fits its region
(spec/70_reset_and_hazards.md R267). An `Instr` needs no further check: its operand types are exactly the fields of R92, so
every term of it is an instruction. -/

namespace Sys2Proof

/-- One row of the opcode map of R96. -/
structure OpcodeRow where
  code : String
  pattern : Word
  mask : Word
  deriving DecidableEq, Repr

/-- A word matches a row when `(op and mask) = match` (R96). -/
abbrev OpcodeRow.Matches (r : OpcodeRow) (w : Word) : Prop := w &&& r.mask = r.pattern

/-- The map's rows of the high nibbles 0 to 7 (R96). -/
def opcodeRowsLow : List OpcodeRow :=
  [⟨"00E0", 0x00E0#16, 0xFFFF#16⟩, ⟨"00EE", 0x00EE#16, 0xFFFF#16⟩, ⟨"1NNN", 0x1000#16, 0xF000#16⟩, ⟨"2NNN", 0x2000#16, 0xF000#16⟩,
   ⟨"3XNN", 0x3000#16, 0xF000#16⟩, ⟨"4XNN", 0x4000#16, 0xF000#16⟩, ⟨"5XY0", 0x5000#16, 0xF00F#16⟩, ⟨"6XNN", 0x6000#16, 0xF000#16⟩,
   ⟨"7XNN", 0x7000#16, 0xF000#16⟩]

/-- The map's rows of the high nibbles 8 to D (R96). -/
def opcodeRowsMid : List OpcodeRow :=
  [⟨"8XY0", 0x8000#16, 0xF00F#16⟩, ⟨"8XY1", 0x8001#16, 0xF00F#16⟩, ⟨"8XY2", 0x8002#16, 0xF00F#16⟩, ⟨"8XY3", 0x8003#16, 0xF00F#16⟩,
   ⟨"8XY4", 0x8004#16, 0xF00F#16⟩, ⟨"8XY5", 0x8005#16, 0xF00F#16⟩, ⟨"8XY6", 0x8006#16, 0xF00F#16⟩, ⟨"8XY7", 0x8007#16, 0xF00F#16⟩,
   ⟨"8XYE", 0x800E#16, 0xF00F#16⟩, ⟨"9XY0", 0x9000#16, 0xF00F#16⟩, ⟨"ANNN", 0xA000#16, 0xF000#16⟩, ⟨"BNNN", 0xB000#16, 0xF000#16⟩,
   ⟨"CXNN", 0xC000#16, 0xF000#16⟩, ⟨"DXYN", 0xD000#16, 0xF000#16⟩]

/-- The map's rows of the high nibbles E and F (R96). -/
def opcodeRowsHigh : List OpcodeRow :=
  [⟨"EX9E", 0xE09E#16, 0xF0FF#16⟩, ⟨"EXA1", 0xE0A1#16, 0xF0FF#16⟩, ⟨"FX07", 0xF007#16, 0xF0FF#16⟩, ⟨"FX0A", 0xF00A#16, 0xF0FF#16⟩,
   ⟨"FX15", 0xF015#16, 0xF0FF#16⟩, ⟨"FX18", 0xF018#16, 0xF0FF#16⟩, ⟨"FX1E", 0xF01E#16, 0xF0FF#16⟩, ⟨"FX29", 0xF029#16, 0xF0FF#16⟩,
   ⟨"FX33", 0xF033#16, 0xF0FF#16⟩, ⟨"FX55", 0xF055#16, 0xF0FF#16⟩, ⟨"FX65", 0xF065#16, 0xF0FF#16⟩]

/-- The complete opcode map of R96: 34 rows. -/
def opcodeMap : List OpcodeRow := opcodeRowsLow ++ opcodeRowsMid ++ opcodeRowsHigh

/-- The word is an instruction: some row of the map matches it (R96, R97). -/
abbrev Word.WellFormed (w : Word) : Prop := ∃ r ∈ opcodeMap, r.Matches w

/-- The image fits the region 0x200 to 0xFFF (R267). -/
abbrev imageWellFormed (image : List Byte) : Prop := image.length ≤ Config.maxImage

end Sys2Proof
end

