-- ==== Sys2Proof/Machine/HostPort.lean ====
section
/-! DEFINITION. What the host may do between two cycles (spec/60_exceptions.md R245, spec/70_reset_and_hazards.md R260, R266 to
R268, R275). It can write nothing else. -/

namespace Sys2Proof.Machine

/-- The host's inputs that change state, but for the cycle request, which is `step`. -/
inductive HostAction where
  /-- Asserts `reset` (R260). -/
  | reset
  /-- Loads a program image at 0x200 (R266). -/
  | load (image : List Byte)
  /-- Sets or clears the latch of key k (R31). -/
  | keyWrite (k : Reg) (down : Bool)
  /-- Clears `redraw` (R32). -/
  | clearRedraw
  deriving DecidableEq, Repr

/-- Every element of state at its reset value, whatever it held (R260). The values of `rnd` already drawn are not drawn again:
that counter is the model's own (log 14). -/
def State.doReset (s : State) : State := { State.reset with draws := s.draws }

/-- The program load (R266): once, after reset and before the first cycle (R268), an image that fits (R267). Otherwise there is
no such step. -/
def State.load? (s : State) (image : List Byte) : Option State :=
  if s.loadOpen && decide (image.length ≤ Config.maxImage) then
    some { s with mem := s.mem.writeBytes Config.programEntry image, loadOpen := false }
  else none

/-- The latch of key k becomes `down`, the other latches keep their values (R31). -/
def State.writeKey (s : State) (k : Reg) (down : Bool) : State :=
  { s with key := if down then s.key ||| BitVec.twoPow 16 k.val else s.key &&& ~~~(BitVec.twoPow 16 k.val) }

/-- The host's move at a cycle boundary (R70, R275): the state after it, or none where the contract gives no such step. -/
def hostStep (a : HostAction) (s : State) : Option State :=
  match a with
  | .reset => some s.doReset
  | .load image => s.load? image
  | .keyWrite k down => some (s.writeKey k down)
  | .clearRedraw => some s.clearRedraw

end Sys2Proof.Machine
end

