-- ==== Sys2Proof/Safety.lean ====
section
/-! DEFINITION. What counts as a safe run: one that never halts (spec/60_exceptions.md R231: a faulted state is never final and
refutes any claim that the program runs correctly), and the states the machine and its host can reach (spec/70_reset_and_hazards.md
R263). -/

namespace Sys2Proof.Safety

open Sys2Proof.Machine

/-- No fault has happened. -/
def Running (s : State) : Prop := s.halted = false

/-- Each of the next `n` cycles, the host doing nothing between them, ends without a fault (log 10). -/
def RunsSafely (s : State) : Nat → Prop
  | 0 => Running s
  | n + 1 => Running s ∧ ∃ t, step s = .next t ∧ RunsSafely t n

/-- The states reached from reset by cycles and by the host's moves between them (R263, R70). -/
inductive Reachable : State → Prop where
  | reset : Reachable State.reset
  | cycle {s t : State} : Reachable s → step s = .next t → Reachable t
  | host {s t : State} (a : HostAction) : Reachable s → hostStep a s = some t → Reachable t

/-- What holds of the state in every run: memory is in canonical form; `pc` is at most 0x10FE (R23); every stack entry is the
address of a CALL, at most 0xFFE, or the reset value (R140); the fault registers record a fault of R232 exactly when the core has
halted (R33, R231); and a halted core has run a cycle, so that its load port is closed (R268, log 4, log 5). -/
structure Inv (s : State) : Prop where
  memory : s.mem.wf = true
  pc : s.pc.toNat ≤ 0x10FE
  stack : ∀ k : Fin 16, (s.stack[k.val]'k.isLt).toNat ≤ 0xFFE
  noFault : s.halted = false → s.faultCode = 0#3 ∧ s.faultInfo = 0#16
  faultRecorded : s.halted = true → 1 ≤ s.faultCode.toNat ∧ s.faultCode.toNat ≤ 5
  haltedClosed : s.halted = true → s.loadOpen = false

end Sys2Proof.Safety
end

