-- ==== Sys2Proof/Certificates/Slice0/Obligations.lean ====
section
/-! DEFINITION. The statements about the machine, and the vocabulary of their frames. The next state of an instruction is that
of its execute phase (spec/40_cycle.md R124); the cycle around it is stated in the section on the cycle. -/

namespace Sys2Proof.Frame

open Sys2Proof.Machine

/-- The parts of the state other than the V registers. -/
inductive Part where
  | index | pc | sp | stack | mem | dt | st | screen | redraw | fault | key | loadOpen | draws
  deriving DecidableEq

/-- The part has the same value in both states: memory byte by byte, the framebuffer cell by cell; `fault` is `halted`,
`fault_code` and `fault_info`. -/
def Same (p : Part) (s t : State) : Prop :=
  match p with
  | .index => t.I = s.I
  | .pc => t.pc = s.pc
  | .sp => t.sp = s.sp
  | .stack => ∀ k : Fin 16, t.stack[k.val]'k.isLt = s.stack[k.val]'k.isLt
  | .mem => ∀ a, t.mem.read a = s.mem.read a
  | .dt => t.dt = s.dt
  | .st => t.st = s.st
  | .screen => ∀ k < 2048, t.fbCell k = s.fbCell k
  | .redraw => t.redraw = s.redraw
  | .fault => t.halted = s.halted ∧ t.faultCode = s.faultCode ∧ t.faultInfo = s.faultInfo
  | .key => t.key = s.key
  | .loadOpen => t.loadOpen = s.loadOpen
  | .draws => t.draws = s.draws

/-- Every register but those of `regs` and every part but those of `parts` is unchanged from `s` to `t`. -/
def But (regs : Reg → Prop) (parts : List Part) (s t : State) : Prop :=
  (∀ r, ¬ regs r → t.reg r = s.reg r) ∧ ∀ p, p ∉ parts → Same p s t

/-- No register. -/
def noReg (_ : Reg) : Prop := False

/-- The execute phase raised the fault `code` with `info` and changed nothing else (spec/60_exceptions.md R231, R232). -/
def Faulted (code : BitVec 3) (info : Word) (s t : State) : Prop :=
  t.halted = true ∧ t.faultCode = code ∧ t.faultInfo = info ∧ But noReg [.fault] s t

/-- `1 if c else 0`, as a number. -/
def bit (c : Prop) [Decidable c] : Nat := if c then 1 else 0

/-- The sprite of `n` rows at `I`, drawn at column x0 and row y0, has a 1 bit over the cell of column cx and row cy
(spec/44_display.md R201: bit 7 leftmost, each pixel wrapped by itself). -/
def Plotted (s : State) (x0 y0 n cx cy : Nat) : Prop :=
  ∃ row col, row < n ∧ col < 8 ∧ (s.mem.read (s.base + row)).getLsbD (7 - col) = true ∧
    (x0 + col) % 64 = cx ∧ (y0 + row) % 32 = cy

/-- The byte at `a` once V0 to Vx have been stored at `I` and up (R184). -/
def afterRegs (s : State) (x : Reg) (a : Nat) : Byte :=
  if s.base ≤ a ∧ a ≤ s.base + x.val then s.reg (Fin.ofNat 16 (a - s.base)) else s.mem.read a

/-- The byte at `a`, as a number, once the three digits of Vx have been stored at `I` and up (R183). -/
def afterDigits (s : State) (x : Reg) (a : Nat) : Nat :=
  if a = s.base then (s.reg x).toNat / 100
  else if a = s.base + 1 then (s.reg x).toNat / 10 % 10
  else if a = s.base + 2 then (s.reg x).toNat % 10
  else (s.mem.read a).toNat

/-- The two bytes at `pc` decode to the instruction `i`, and nothing stops the cycle before it executes (R120). -/
def Runs (s : State) (i : Instr) : Prop :=
  s.halted = false ∧ s.pc.toNat ≤ 0xFFE ∧
    decodeBytes (s.mem.read s.pc.toNat) (s.mem.read (s.pc.toNat + 1)) = .ok i

/-- The two bytes at `pc` are an unknown opcode, and the cycle fetches them. -/
def MeetsUnknown (s : State) : Prop :=
  s.halted = false ∧ s.pc.toNat ≤ 0xFFE ∧
    ∃ g, decodeBytes (s.mem.read s.pc.toNat) (s.mem.read (s.pc.toNat + 1)) = .error g

end Sys2Proof.Frame

open Sys2Proof Sys2Proof.Machine Sys2Proof.Frame Sys2Proof.Safety

/-! ### Encoding -/

/-- One word of each format of R91, written out bit by bit from R96, decodes to its instruction. The exact match of the 0 group
is the spec's decision D8, the sub-code E its D9 (log 15). -/
def Obligations.WrittenOutWordsDecode : Prop :=
  decode 0b0000000011100000#16 = .ok .cls ∧
  decode 0b0010101010111100#16 = .ok (.call 0xABC#12) ∧
  decode 0b0110000000000101#16 = .ok (.ldImm 0 0x05#8) ∧
  decode 0b1000000000010100#16 = .ok (.addReg 0 1) ∧
  decode 0b1000101010111110#16 = .ok (.shl 0xA 0xB) ∧
  decode 0b1101000100100011#16 = .ok (.drw 1 2 3#4) ∧
  decode 0b1110010110011110#16 = .ok (.skp 5) ∧
  decode 0b1111111001100101#16 = .ok (.loadRegs 0xE) ∧
  decode 0b0000001000110000#16 = .error .group0 ∧
  decode 0b0101000100100001#16 = .error .group5

/-- Decoding an instruction's word gives the instruction back, every operand at every value. The sub-codes of the 8 group are
the spec's decision D9 (log 15). -/
def Obligations.DecodeOfEncodeIsTheInstruction : Prop := ∀ i : Instr, decode (encode i) = .ok i

/-- Encoding what a word decodes to gives the word back: no bit of an instruction word is dropped. -/
def Obligations.EncodeOfDecodeIsTheWord : Prop := ∀ (w : Word) (i : Instr), decode w = .ok i → encode i = w

/-- R96: a word decodes to an instruction of a row exactly when it matches that row; the rows are disjoint; a word matching no
row is unknown. That codes match exactly is the spec's decision D8, the sub-codes of the 8 group its D9 (log 15). -/
def Obligations.DecoderFollowsTheOpcodeMap : Prop :=
  (∀ (w : Word) (r : OpcodeRow), r ∈ opcodeMap → (r.Matches w ↔ ∃ i, decode w = .ok i ∧ i.code = r.code)) ∧
  (∀ (w : Word) (r q : OpcodeRow), r ∈ opcodeMap → q ∈ opcodeMap → r.Matches w → q.Matches w → r = q) ∧
  (∀ w : Word, (¬ ∃ r ∈ opcodeMap, r.Matches w) ↔ ∃ g, decode w = .error g)

/-- The groups of unknown opcodes, exactly the words R97 lists in each. Which words are unknown rests on the spec's decisions D8
and D9 (log 15). -/
def Obligations.UnknownOpcodeGroupsAreExact : Prop :=
  ∀ w : Word,
    (decode w = .error .group0 ↔ w.toNat ≤ 0x0FFF ∧ w ≠ 0x00E0#16 ∧ w ≠ 0x00EE#16) ∧
    (decode w = .error .group5 ↔ w.toNat / 4096 = 5 ∧ w.toNat % 16 ≠ 0) ∧
    (decode w = .error .group8 ↔ w.toNat / 4096 = 8 ∧ w.toNat % 16 ∈ [8, 9, 0xA, 0xB, 0xC, 0xD, 0xF]) ∧
    (decode w = .error .group9 ↔ w.toNat / 4096 = 9 ∧ w.toNat % 16 ≠ 0) ∧
    (decode w = .error .groupE ↔ w.toNat / 4096 = 0xE ∧ w.toNat % 256 ∉ [0x9E, 0xA1]) ∧
    (decode w = .error .groupF ↔
      w.toNat / 4096 = 0xF ∧ w.toNat % 256 ∉ [0x07, 0x0A, 0x15, 0x18, 0x1E, 0x29, 0x33, 0x55, 0x65])

/-! ### The cycle -/

/-- R60: the fetched word has the byte at `pc` in its high half, and it is this word that a step decodes (R120, R123): the decoder
on two bytes is the decoder on the word that has the first of them in its high half, and the fetch hands it the bytes at `pc`. -/
def Obligations.FetchIsBigEndian : Prop :=
  (∀ s : State,
    s.fetchWord.toNat = 256 * (s.mem.read s.pc.toNat).toNat + (s.mem.read (s.pc.toNat + 1)).toNat ∧
    s.fetchDecode = decode s.fetchWord ∧
    s.fetchDecode = decodeBytes (s.mem.read s.pc.toNat) (s.mem.read (s.pc.toNat + 1))) ∧
  ∀ (first second : Byte) (w : Word), w.toNat = 256 * first.toNat + second.toNat → decodeBytes first second = decode w

/-- A step runs the decoded instruction: `exec` from the state with `redraw` cleared and the load port closed, then the timer
tick; or, where `exec` raised a fault, the state before the cycle with only the fault recorded and the load port closed
(R120, R231; the load port: log 4, log 5). That a fault undoes the cycle is the spec's decision D7 (log 16). -/
def Obligations.StepRunsTheDecodedInstruction : Prop :=
  ∀ (s t : State) (i : Instr), Runs s i →
    exec i { s with redraw := false, loadOpen := false } = .next t →
    (t.halted = false → step s = .next { t with dt := countDown t.dt, st := countDown t.st }) ∧
    (t.halted = true →
      step s = .next { s with loadOpen := false, halted := true, faultCode := t.faultCode, faultInfo := t.faultInfo })

/-- An unknown opcode (R126): the cycle reports it with its word and address, clears `redraw`, ticks, and changes nothing else
but the load port (log 4), `pc` least of all. The status report is the spec's decision D19 (log 15). -/
def Obligations.UnknownOpcodeCycle : Prop :=
  ∀ s : State, MeetsUnknown s →
    ∃ t, cycle s = .next (t, .unknownOpcode s.fetchWord s.pc) ∧ step s = .next t ∧
      t.redraw = false ∧ t.dt.toNat = s.dt.toNat - 1 ∧ t.st.toNat = s.st.toNat - 1 ∧ t.halted = false ∧
      But noReg [.redraw, .dt, .st, .loadOpen] s t

/-- An unknown opcode hangs the program for ever (R126): after any number of further cycles the core is still at it, not
faulted, with nothing changed but the timers counted down to zero and `redraw` clear (and the load port, log 4). The run has no
host move between its cycles (log 10): a key written between two of them would change its latch. -/
def Obligations.UnknownOpcodeHangsForEver : Prop :=
  ∀ (s : State) (n : Nat), MeetsUnknown s →
    ∃ t, core.run n s = .next t ∧ MeetsUnknown t ∧ t.dt.toNat = s.dt.toNat - n ∧ t.st.toNat = s.st.toNat - n ∧
      But noReg [.redraw, .dt, .st, .loadOpen] s t

/-- FETCH_RANGE (R122, R235): with `pc` above 0xFFE the cycle faults with code 1 and info `pc`; nothing else changes but the load
port (log 5). The fault is the spec's decision D6, its effect D7 (log 16). -/
def Obligations.FetchOutsideMemoryFaults : Prop :=
  ∀ s : State, s.halted = false → 0xFFE < s.pc.toNat →
    ∃ t, cycle s = .next (t, .fault 1#3 s.pc) ∧ step s = .next t ∧
      t.halted = true ∧ t.faultCode = 1#3 ∧ t.faultInfo = s.pc ∧ But noReg [.fault, .loadOpen] s t

/-- A cycle while halted (R130): it changes no state at all and reports FAULT, however often it is requested, with no host
move between the requests (log 10). The halted core is the spec's decision D7 (log 16). -/
def Obligations.HaltedCoreIgnoresCycles : Prop :=
  ∀ s : State, s.halted = true →
    cycle s = .next (s, .fault s.faultCode s.faultInfo) ∧ ∀ n, core.run n s = .next s

/-- Faults are precise (R231): when a cycle of a running core reports a fault, `halted`, `fault_code` and `fault_info` record it and
everything else is as it was before the cycle, `pc`, `redraw` and the timers included (but for the model's own bits: the load port,
log 5). Faults are the spec's decision D7 (log 16). -/
def Obligations.FaultingCycleIsPrecise : Prop :=
  ∀ (s t : State) (code : BitVec 3) (info : Word), s.halted = false → cycle s = .next (t, .fault code info) →
    t.halted = true ∧ t.faultCode = code ∧ t.faultInfo = info ∧ 1 ≤ code.toNat ∧ code.toNat ≤ 5 ∧
      But noReg [.fault, .loadOpen] s t

/-- R127: each cycle that does not fault counts each nonzero timer down by one after its instruction, floor at zero; a cycle that
sets a timer counts down what it set. -/
def Obligations.TimersTickEveryCycle : Prop :=
  ∀ s t : State, s.halted = false → step s = .next t → t.halted = false →
    ((∀ x, ¬ Runs s (.ldDT x)) → t.dt.toNat = s.dt.toNat - 1) ∧
    (∀ x, Runs s (.ldDT x) → t.dt.toNat = (s.reg x).toNat - 1) ∧
    ((∀ x, ¬ Runs s (.ldST x)) → t.st.toNat = s.st.toNat - 1) ∧
    (∀ x, Runs s (.ldST x) → t.st.toNat = (s.reg x).toNat - 1)

/-- R32: after a cycle that does not fault, `redraw` is 1 exactly when that cycle executed 00E0 or DXYN. -/
def Obligations.RedrawTellsDrawingCycles : Prop :=
  ∀ s t : State, s.halted = false → step s = .next t → t.halted = false →
    (t.redraw = true ↔ ∃ i, Runs s i ∧ i.code ∈ ["00E0", "DXYN"])

/-- R128: which status a cycle reports, with its attachments. The four values are the spec's decision D2 (log 11). -/
def Obligations.StatusTellsTheOutcome : Prop :=
  ∀ (s t : State) (r : Status), cycle s = .next (t, r) →
    (r = .stall ↔ (∃ x, Runs s (.ldKey x)) ∧ ∀ k < 16, s.keyDown k = false) ∧
    (∀ op a, r = .unknownOpcode op a ↔ MeetsUnknown s ∧ op = s.fetchWord ∧ a = s.pc) ∧
    ((∃ code info, r = .fault code info) ↔ t.halted = true) ∧
    (∀ code info, r = .fault code info → t.faultCode = code ∧ t.faultInfo = info) ∧
    (r = .ok ↔ t.halted = false ∧ ∃ i, Runs s i ∧ (i.code = "FX0A" → ∃ k < 16, s.keyDown k = true))

/-- Every cycle ends in a next state, and so does every execute phase: no instruction, state or operand stops this machine
otherwise (log 1). -/
def Obligations.EveryCycleHasANextState : Prop :=
  (∀ (i : Instr) (s : State), ∃ t, exec i s = .next t) ∧ ∀ s : State, ∃ t, step s = .next t

/-! ### Control flow -/

/-- R140: RET pops the stacked address and adds 2; the popped slot keeps its content. With an empty stack it raises
STACK_UNDERFLOW. The order of the pop is the spec's decision D3, the fault its D5 (log 15, log 16). -/
def Obligations.RetReturnsPastTheCall : Prop :=
  ∀ s : State,
    (∀ h : 0 < s.sp.val, ∃ t, exec .ret s = .next t ∧ t.sp.val = s.sp.val - 1 ∧
      t.pc = s.stack[s.sp.val - 1]'(by omega) + 2#16 ∧ But noReg [.pc, .sp] s t) ∧
    (s.sp.val = 0 → ∃ t, exec .ret s = .next t ∧ Faulted 4#3 s.pc s t)

/-- R141, R147: JP goes to NNN; JP V0 goes to NNN + V0, a sum that is not reduced to 12 bits. -/
def Obligations.JumpsGoToTheirTarget : Prop :=
  ∀ (s : State) (nnn : Addr),
    (∃ t, exec (.jp nnn) s = .next t ∧ t.pc.toNat = nnn.toNat ∧ But noReg [.pc] s t) ∧
    (∃ t, exec (.jpV0 nnn) s = .next t ∧ t.pc.toNat = nnn.toNat + (s.reg 0).toNat ∧ But noReg [.pc] s t)

/-- R142: CALL pushes its own address and goes to NNN; the other slots keep their content. With 16 entries in use it raises
STACK_OVERFLOW. The order of the push is the spec's decision D3, the fault its D4 (log 15, log 16). -/
def Obligations.CallPushesItsOwnAddress : Prop :=
  ∀ (s : State) (nnn : Addr),
    (∀ h : s.sp.val < 16, ∃ t, exec (.call nnn) s = .next t ∧ t.sp.val = s.sp.val + 1 ∧
      t.stack[s.sp.val]'h = s.pc ∧ t.pc.toNat = nnn.toNat ∧
      (∀ k : Fin 16, k.val ≠ s.sp.val → t.stack[k.val]'k.isLt = s.stack[k.val]'k.isLt) ∧
      But noReg [.pc, .sp, .stack] s t) ∧
    (s.sp.val = 16 → ∃ t, exec (.call nnn) s = .next t ∧ Faulted 3#3 s.pc s t)

/-- A CALL and, from any state with the stack it left, a RET: execution goes on after the CALL at the old depth (R140, R142). -/
def Obligations.ReturnUndoesCall : Prop :=
  ∀ (s t u : State) (nnn : Addr), s.sp.val < 16 → exec (.call nnn) s = .next t → u.sp = t.sp → u.stack = t.stack →
    ∃ w, exec .ret u = .next w ∧ w.pc = s.pc + 2#16 ∧ w.sp = s.sp ∧ But noReg [.pc, .sp] u w

/-- R143, R144: SE and SNE against a constant skip the next two bytes when the comparison holds. -/
def Obligations.SkipsAgainstAConstant : Prop :=
  ∀ (s : State) (x : Reg) (nn : Byte),
    (∃ t, exec (.seImm x nn) s = .next t ∧ t.pc = s.pc + (if s.reg x = nn then 4#16 else 2#16) ∧ But noReg [.pc] s t) ∧
    (∃ t, exec (.sneImm x nn) s = .next t ∧ t.pc = s.pc + (if s.reg x = nn then 2#16 else 4#16) ∧ But noReg [.pc] s t)

/-- R145, R146: SE and SNE between registers. That the low nibble of their words must be 0 is decision D8, not said here. -/
def Obligations.SkipsBetweenRegisters : Prop :=
  ∀ (s : State) (x y : Reg),
    (∃ t, exec (.seReg x y) s = .next t ∧ t.pc = s.pc + (if s.reg x = s.reg y then 4#16 else 2#16) ∧
      But noReg [.pc] s t) ∧
    (∃ t, exec (.sneReg x y) s = .next t ∧ t.pc = s.pc + (if s.reg x = s.reg y then 2#16 else 4#16) ∧
      But noReg [.pc] s t)

/-! ### Register load, arithmetic and logic -/

/-- R160, R161: load and add of a constant; the sum wraps modulo 256 and no flag is written. -/
def Obligations.ConstantLoadAndAdd : Prop :=
  ∀ (s : State) (x : Reg) (nn : Byte),
    (∃ t, exec (.ldImm x nn) s = .next t ∧ t.reg x = nn ∧ t.pc = s.pc + 2#16 ∧ But (· = x) [.pc] s t) ∧
    (∃ t, exec (.addImm x nn) s = .next t ∧ (t.reg x).toNat = ((s.reg x).toNat + nn.toNat) % 256 ∧
      t.pc = s.pc + 2#16 ∧ But (· = x) [.pc] s t)

/-- R162 to R165: assign, OR, AND, XOR, bit by bit; VF is left alone unless it is the destination. Which sub-code is which
operation is the spec's decision D9 (log 15). -/
def Obligations.AssignAndLogic : Prop :=
  ∀ (s : State) (x y : Reg),
    (∃ t, exec (.ldReg x y) s = .next t ∧ t.reg x = s.reg y ∧ t.pc = s.pc + 2#16 ∧ But (· = x) [.pc] s t) ∧
    (∃ t, exec (.orReg x y) s = .next t ∧
      (∀ k < 8, (t.reg x).getLsbD k = ((s.reg x).getLsbD k || (s.reg y).getLsbD k)) ∧
      t.pc = s.pc + 2#16 ∧ But (· = x) [.pc] s t) ∧
    (∃ t, exec (.andReg x y) s = .next t ∧
      (∀ k < 8, (t.reg x).getLsbD k = ((s.reg x).getLsbD k && (s.reg y).getLsbD k)) ∧
      t.pc = s.pc + 2#16 ∧ But (· = x) [.pc] s t) ∧
    (∃ t, exec (.xorReg x y) s = .next t ∧
      (∀ k < 8, (t.reg x).getLsbD k = ((s.reg x).getLsbD k ^^ (s.reg y).getLsbD k)) ∧
      t.pc = s.pc + 2#16 ∧ But (· = x) [.pc] s t)

/-- R166: the flag first, from the operands; then the sum modulo 256, in which VF as an operand is the flag just written. That
VF is read back is the spec's decision D10 (log 15). -/
def Obligations.AddRegisters : Prop :=
  ∀ (s : State) (x y : Reg),
    let f := bit ((s.reg x).toNat + (s.reg y).toNat > 255)
    let a := if x = VF then f else (s.reg x).toNat
    let b := if y = VF then f else (s.reg y).toNat
    ∃ t, exec (.addReg x y) s = .next t ∧ (t.reg x).toNat = (a + b) % 256 ∧
      (x ≠ VF → (t.reg VF).toNat = f) ∧ t.pc = s.pc + 2#16 ∧ But (fun r => r = x ∨ r = VF) [.pc] s t

/-- R167: VF = 1 when no borrow occurs, then Vx - Vy modulo 256. That equal operands do not borrow is the spec's decision D11, that
VF is read back its D10 (log 15). -/
def Obligations.SubtractRegisters : Prop :=
  ∀ (s : State) (x y : Reg),
    let f := bit ((s.reg x).toNat ≥ (s.reg y).toNat)
    let a := if x = VF then f else (s.reg x).toNat
    let b := if y = VF then f else (s.reg y).toNat
    ∃ t, exec (.sub x y) s = .next t ∧ (t.reg x).toNat = (a + 256 - b) % 256 ∧
      (x ≠ VF → (t.reg VF).toNat = f) ∧ t.pc = s.pc + 2#16 ∧ But (fun r => r = x ∨ r = VF) [.pc] s t

/-- R169: VF = 1 when no borrow occurs, then Vy - Vx modulo 256. The sub-code is the spec's decision D9, equal operands and VF read
back as in R167 (D11, D10; log 15). -/
def Obligations.SubtractReversed : Prop :=
  ∀ (s : State) (x y : Reg),
    let f := bit ((s.reg y).toNat ≥ (s.reg x).toNat)
    let a := if x = VF then f else (s.reg x).toNat
    let b := if y = VF then f else (s.reg y).toNat
    ∃ t, exec (.subn x y) s = .next t ∧ (t.reg x).toNat = (b + 256 - a) % 256 ∧
      (x ≠ VF → (t.reg VF).toNat = f) ∧ t.pc = s.pc + 2#16 ∧ But (fun r => r = x ∨ r = VF) [.pc] s t

/-- R168, R170: the bit that is lost goes to VF, then Vx shifts by one, whatever Y is; with X = 0xF the shifted value is the flag
just written. Both readings are the spec's decisions D9 and D10 (log 15). -/
def Obligations.ShiftsByOne : Prop :=
  ∀ (s : State) (x y : Reg),
    (let f := (s.reg x).toNat % 2
     let a := if x = VF then f else (s.reg x).toNat
     ∃ t, exec (.shr x y) s = .next t ∧ (t.reg x).toNat = a / 2 ∧
       (x ≠ VF → (t.reg VF).toNat = f) ∧ t.pc = s.pc + 2#16 ∧ But (fun r => r = x ∨ r = VF) [.pc] s t) ∧
    (let f := (s.reg x).toNat / 128
     let a := if x = VF then f else (s.reg x).toNat
     ∃ t, exec (.shl x y) s = .next t ∧ (t.reg x).toNat = 2 * a % 256 ∧
       (x ≠ VF → (t.reg VF).toNat = f) ∧ t.pc = s.pc + 2#16 ∧ But (fun r => r = x ∨ r = VF) [.pc] s t)

/-- The consequences R172 lists for VF as an operand, one by one; `x`, `y` are registers other than VF. They rest on the spec's
decision D10 (log 15). -/
def Obligations.FlagRegisterAsOperand : Prop :=
  ∀ (s : State) (x y : Reg), x ≠ VF → y ≠ VF →
    let v := (s.reg VF).toNat
    let a := (s.reg x).toNat
    let b := (s.reg y).toNat
    (∃ t, exec (.addReg VF y) s = .next t ∧ (t.reg VF).toNat = (bit (v + b > 255) + b) % 256) ∧
    (∃ t, exec (.addReg x VF) s = .next t ∧ (t.reg x).toNat = (a + bit (a + v > 255)) % 256 ∧
      (t.reg VF).toNat = bit (a + v > 255)) ∧
    (∃ t, exec (.addReg VF VF) s = .next t ∧ (t.reg VF).toNat = 2 * bit (v ≥ 128)) ∧
    (∃ t, exec (.sub VF y) s = .next t ∧ (t.reg VF).toNat = (bit (v ≥ b) + 256 - b) % 256) ∧
    (∃ t, exec (.sub x VF) s = .next t ∧ (t.reg x).toNat = (a + 256 - bit (a ≥ v)) % 256 ∧
      (t.reg VF).toNat = bit (a ≥ v)) ∧
    (∃ t, exec (.sub VF VF) s = .next t ∧ (t.reg VF).toNat = 0) ∧
    (∃ t, exec (.subn VF y) s = .next t ∧ (t.reg VF).toNat = (b + 256 - bit (b ≥ v)) % 256) ∧
    (∃ t, exec (.subn x VF) s = .next t ∧ (t.reg x).toNat = (bit (v ≥ a) + 256 - a) % 256 ∧
      (t.reg VF).toNat = bit (v ≥ a)) ∧
    (∃ t, exec (.subn VF VF) s = .next t ∧ (t.reg VF).toNat = 0) ∧
    (∃ t, exec (.shr VF y) s = .next t ∧ (t.reg VF).toNat = 0) ∧
    (∃ t, exec (.shl VF y) s = .next t ∧ (t.reg VF).toNat = 2 * (v / 128))

/-- R171: RND stores the draw AND NN. The draw is the free value of log 3, whose place in the sequence the model counts; the
statement holds whatever it is, and in particular no bit that NN lacks is set. That the draw is free is the spec's decision
D15. -/
def Obligations.RandomIsMasked : Prop :=
  ∀ (s : State) (x : Reg) (nn : Byte),
    ∃ t, exec (.rnd x nn) s = .next t ∧
      (∀ k < 8, (t.reg x).getLsbD k = ((Config.freeRnd s.draws).getLsbD k && nn.getLsbD k)) ∧
      t.draws = s.draws + 1 ∧ t.pc = s.pc + 2#16 ∧ But (· = x) [.pc, .draws] s t

/-! ### Index register and memory -/

/-- R180, R182: LD I loads NNN; LD F loads five times the whole byte. That the whole byte counts is the spec's decision D26, the
advance of `pc` by FX29 its D13 (log 15). -/
def Obligations.IndexLoads : Prop :=
  ∀ (s : State) (nnn : Addr) (x : Reg),
    (∃ t, exec (.ldI nnn) s = .next t ∧ t.I.toNat = nnn.toNat ∧ t.pc = s.pc + 2#16 ∧ But noReg [.index, .pc] s t) ∧
    (∃ t, exec (.ldF x) s = .next t ∧ t.I.toNat = (s.reg x).toNat * 5 ∧ t.pc = s.pc + 2#16 ∧
      But noReg [.index, .pc] s t)

/-- R181: VF = 1 when the exact sum is above 0xFFF; then the 16-bit sum, in which VF as the operand is the flag just written.
The wrap and the order are the spec's decision D12, the advance of `pc` its D13 (log 15). -/
def Obligations.IndexAdd : Prop :=
  ∀ (s : State) (x : Reg),
    let f := bit (s.I.toNat + (s.reg x).toNat > 0xFFF)
    let a := if x = VF then f else (s.reg x).toNat
    ∃ t, exec (.addI x) s = .next t ∧ t.I.toNat = (s.I.toNat + a) % 65536 ∧ (t.reg VF).toNat = f ∧
      t.pc = s.pc + 2#16 ∧ But (· = VF) [.index, .pc] s t

/-- R183: LD B stores the three decimal digits at I, I + 1, I + 2 and nothing else; with I + 2 above 0xFFF it raises MEM_RANGE
before any byte is written. The fault is the spec's decision D6 (log 16), the digits D28, `I` and `pc` D14 and D13 (log 15). -/
def Obligations.DecimalDigitsAreStored : Prop :=
  ∀ (s : State) (x : Reg),
    (s.base + 2 ≤ 0xFFF → ∃ t, exec (.ldB x) s = .next t ∧
      (t.mem.read s.base).toNat = (s.reg x).toNat / 100 ∧
      (t.mem.read (s.base + 1)).toNat = (s.reg x).toNat / 10 % 10 ∧
      (t.mem.read (s.base + 2)).toNat = (s.reg x).toNat % 10 ∧
      (∀ a, a < s.base ∨ s.base + 2 < a → t.mem.read a = s.mem.read a) ∧
      t.pc = s.pc + 2#16 ∧ But noReg [.mem, .pc] s t) ∧
    (0xFFF < s.base + 2 → ∃ t, exec (.ldB x) s = .next t ∧ Faulted 2#3 s.I s t)

/-- R184: LD [I], Vx stores V0 to Vx at I and up, and nothing else; with I + X above 0xFFF it raises MEM_RANGE before any byte is
written. The fault is the spec's decision D6 (log 16), `I` and `pc` D14 and D13 (log 15). -/
def Obligations.RegisterBlockIsStored : Prop :=
  ∀ (s : State) (x : Reg),
    (s.base + x.val ≤ 0xFFF → ∃ t, exec (.storeRegs x) s = .next t ∧
      (∀ r : Reg, r ≤ x → t.mem.read (s.base + r.val) = s.reg r) ∧
      (∀ a, a < s.base ∨ s.base + x.val < a → t.mem.read a = s.mem.read a) ∧
      t.pc = s.pc + 2#16 ∧ But noReg [.mem, .pc] s t) ∧
    (0xFFF < s.base + x.val → ∃ t, exec (.storeRegs x) s = .next t ∧ Faulted 2#3 s.I s t)

/-- R185: LD Vx, [I] loads V0 to Vx from I and up; registers above X keep their values; with I + X above 0xFFF it raises MEM_RANGE
before any register is written. The fault is the spec's decision D6 (log 16), `I` and `pc` D14 and D13 (log 15). -/
def Obligations.RegisterBlockIsLoaded : Prop :=
  ∀ (s : State) (x : Reg),
    (s.base + x.val ≤ 0xFFF → ∃ t, exec (.loadRegs x) s = .next t ∧
      (∀ r : Reg, r ≤ x → t.reg r = s.mem.read (s.base + r.val)) ∧
      t.pc = s.pc + 2#16 ∧ But (· ≤ x) [.pc] s t) ∧
    (0xFFF < s.base + x.val → ∃ t, exec (.loadRegs x) s = .next t ∧ Faulted 2#3 s.I s t)

/-- R186 (b): FX55, then FX65 with the same X from any state with the same I and the memory left by the store, restores V0 to Vx;
FX33, then FX65 with X = 2, loads the three digits. -/
def Obligations.LoadAfterStoreRestores : Prop :=
  ∀ (s t u : State) (x : Reg), u.I = s.I → u.mem = t.mem →
    (s.base + x.val ≤ 0xFFF → exec (.storeRegs x) s = .next t →
      ∃ w, exec (.loadRegs x) u = .next w ∧ ∀ r : Reg, r ≤ x → w.reg r = s.reg r) ∧
    (s.base + 2 ≤ 0xFFF → exec (.ldB x) s = .next t →
      ∃ w, exec (.loadRegs 2) u = .next w ∧ (w.reg 0).toNat = (s.reg x).toNat / 100 ∧
        (w.reg 1).toNat = (s.reg x).toNat / 10 % 10 ∧ (w.reg 2).toNat = (s.reg x).toNat % 10)

/-- A store into the instruction stream is seen by the very next fetch (R74): after FX55 or FX33, wherever `pc` then points, each
byte of the fetched word is the one just stored where the store reached its address, and the old one elsewhere. -/
def Obligations.NextFetchSeesTheStore : Prop :=
  ∀ (s t : State) (x : Reg),
    (s.base + x.val ≤ 0xFFF → exec (.storeRegs x) s = .next t →
      t.fetchWord.toNat = 256 * (afterRegs s x t.pc.toNat).toNat + (afterRegs s x (t.pc.toNat + 1)).toNat) ∧
    (s.base + 2 ≤ 0xFFF → exec (.ldB x) s = .next t →
      t.fetchWord.toNat = 256 * afterDigits s x t.pc.toNat + afterDigits s x (t.pc.toNat + 1))

/-! ### Display -/

/-- R200: CLS turns every cell off and sets `redraw`. -/
def Obligations.ClearScreen : Prop :=
  ∀ s : State, ∃ t, exec .cls s = .next t ∧ (∀ k < 2048, t.fbCell k = false) ∧ t.redraw = true ∧
    t.pc = s.pc + 2#16 ∧ But noReg [.screen, .redraw, .pc] s t

/-- R201: DRW flips exactly the cells under a 1 bit of the sprite, VF tells whether one of them was on, `redraw` is set; with a last
row above 0xFFF it raises MEM_RANGE before anything is written, and N = 0 never does. The fault is the spec's decision D6 (log
16), the coordinates read before VF is written its D16 (log 15). -/
def Obligations.SpriteIsDrawn : Prop :=
  ∀ (s : State) (x y : Reg) (n : Nibble),
    let on := fun cx cy => Plotted s (s.reg x).toNat (s.reg y).toNat n.toNat cx cy
    (n.toNat = 0 ∨ s.base + n.toNat - 1 ≤ 0xFFF → ∃ t, exec (.drw x y n) s = .next t ∧
      (∀ cx < 64, ∀ cy < 32,
        (on cx cy → t.fbCell (cx + 64 * cy) = !s.fbCell (cx + 64 * cy)) ∧
        (¬ on cx cy → t.fbCell (cx + 64 * cy) = s.fbCell (cx + 64 * cy))) ∧
      ((∃ cx cy, on cx cy ∧ s.fbCell (cx + 64 * cy) = true) → t.reg VF = 1#8) ∧
      ((¬ ∃ cx cy, on cx cy ∧ s.fbCell (cx + 64 * cy) = true) → t.reg VF = 0#8) ∧
      t.redraw = true ∧ t.pc = s.pc + 2#16 ∧ But (· = VF) [.screen, .redraw, .pc] s t) ∧
    (0 < n.toNat → 0xFFF < s.base + n.toNat - 1 →
      ∃ t, exec (.drw x y n) s = .next t ∧ Faulted 2#3 s.I s t)

/-- R202 (a): drawing the same sprite at the same place twice gives the framebuffer back, and the second draw sets VF exactly when
the sprite has a 1 bit over a cell the first draw left on. VF is no coordinate, since the first draw rewrites it. That reading
order is the spec's decision D16 (log 15). -/
def Obligations.DrawingTwiceRestores : Prop :=
  ∀ (s t u : State) (x y : Reg) (n : Nibble), x ≠ VF → y ≠ VF →
    (n.toNat = 0 ∨ s.base + n.toNat - 1 ≤ 0xFFF) →
    exec (.drw x y n) s = .next t → exec (.drw x y n) t = .next u →
    (∀ k < 2048, u.fbCell k = s.fbCell k) ∧
    (u.reg VF = 1#8 ↔ ∃ cx cy, Plotted s (s.reg x).toNat (s.reg y).toNat n.toNat cx cy ∧
      t.fbCell (cx + 64 * cy) = true) ∧ (u.reg VF = 1#8 ∨ u.reg VF = 0#8)

/-- R202 (d): the draw depends on memory only through its N bytes at I. -/
def Obligations.DrawReadsOnlyItsRows : Prop :=
  ∀ (s t : State) (m : Memory) (x y : Reg) (n : Nibble),
    (∀ k < n.toNat, m.read (s.base + k) = s.mem.read (s.base + k)) →
    exec (.drw x y n) s = .next t → exec (.drw x y n) { s with mem := m } = .next { t with mem := m }

/-! ### Keys and timers -/

/-- R210, R211: SKP and SKNP skip on the latch that Vx names; with Vx above 15 they raise KEY_RANGE. The fault is the spec's
decision D27 (log 16). -/
def Obligations.KeySkips : Prop :=
  ∀ (s : State) (x : Reg),
    ((s.reg x).toNat ≤ 15 →
      (∃ t, exec (.skp x) s = .next t ∧
        t.pc = s.pc + (if s.keyDown (s.reg x).toNat = true then 4#16 else 2#16) ∧ But noReg [.pc] s t) ∧
      (∃ t, exec (.sknp x) s = .next t ∧
        t.pc = s.pc + (if s.keyDown (s.reg x).toNat = true then 2#16 else 4#16) ∧ But noReg [.pc] s t)) ∧
    (15 < (s.reg x).toNat →
      (∃ t, exec (.skp x) s = .next t ∧ Faulted 5#3 (zextByte (s.reg x)) s t) ∧
      (∃ t, exec (.sknp x) s = .next t ∧ Faulted 5#3 (zextByte (s.reg x)) s t))

/-- R212: LD Vx, K takes the highest key that is down; with none down it changes nothing at all and waits. -/
def Obligations.KeyWait : Prop :=
  ∀ (s : State) (x : Reg),
    (∀ k < 16, s.keyDown k = true → (∀ j < 16, k < j → s.keyDown j = false) →
      ∃ t, exec (.ldKey x) s = .next t ∧ (t.reg x).toNat = k ∧ t.pc = s.pc + 2#16 ∧ But (· = x) [.pc] s t) ∧
    ((∀ k < 16, s.keyDown k = false) → exec (.ldKey x) s = .next s)

/-- R213, R214, R215: the moves between a register and a timer, before the tick of the cycle. The advance of `pc` is the spec's
decision D13 (log 15). -/
def Obligations.TimerMoves : Prop :=
  ∀ (s : State) (x : Reg),
    (∃ t, exec (.ldFromDT x) s = .next t ∧ t.reg x = s.dt ∧ t.pc = s.pc + 2#16 ∧ But (· = x) [.pc] s t) ∧
    (∃ t, exec (.ldDT x) s = .next t ∧ t.dt = s.reg x ∧ t.pc = s.pc + 2#16 ∧ But noReg [.dt, .pc] s t) ∧
    (∃ t, exec (.ldST x) s = .next t ∧ t.st = s.reg x ∧ t.pc = s.pc + 2#16 ∧ But noReg [.st, .pc] s t)

/-! ### Rules over all instructions -/

/-- The writers of each part of the state (the W entries of R37): every other instruction leaves it alone. The fault registers are
written only by the instructions R232 names, the draw counter (log 3) only by CXNN, the key latches by none. -/
def Obligations.OnlyTheListedWriters : Prop :=
  ∀ (i : Instr) (s t : State), exec i s = .next t →
    (i.code ∉ ["ANNN", "FX1E", "FX29"] → Same .index s t) ∧
    (i.code ∉ ["00EE", "2NNN"] → Same .sp s t) ∧
    (i.code ∉ ["2NNN"] → Same .stack s t) ∧
    (i.code ∉ ["FX33", "FX55"] → Same .mem s t) ∧
    (i.code ∉ ["FX15"] → Same .dt s t) ∧
    (i.code ∉ ["FX18"] → Same .st s t) ∧
    (i.code ∉ ["00E0", "DXYN"] → Same .screen s t ∧ Same .redraw s t) ∧
    (i.code ∉ ["00EE", "2NNN", "DXYN", "FX33", "FX55", "FX65", "EX9E", "EXA1"] → Same .fault s t) ∧
    (i.code ∉ ["CXNN"] → Same .draws s t) ∧
    Same .key s t ∧ Same .loadOpen s t

/-- VF changes only under the seven flag writers, whatever X and Y are, or under an instruction whose destination X names it
(R21). -/
def Obligations.OnlyFlagWritersTouchVF : Prop :=
  ∀ (i : Instr) (s t : State), exec i s = .next t → t.reg VF ≠ s.reg VF →
    i.code ∈ ["8XY4", "8XY5", "8XY7", "8XY6", "8XYE", "FX1E", "DXYN"] ∨
    (i.code ∈ ["6XNN", "7XNN", "8XY0", "8XY1", "8XY2", "8XY3", "CXNN", "FX07", "FX0A", "FX65"] ∧
      fieldX (encode i) = VF)

/-- The key latches influence no instruction but EX9E, EXA1 and FX0A (R216 (c)). -/
def Obligations.KeysReachOnlyKeyInstructions : Prop :=
  ∀ (i : Instr) (s t : State) (k : BitVec 16), i.code ∉ ["EX9E", "EXA1", "FX0A"] →
    exec i s = .next t → exec i { s with key := k } = .next { t with key := k }

/-! ### Reset, the host, and what holds of every run -/

/-- R36: the state after reset, cell by cell. FONT is the open parameter `Config.font`, and the statement holds for every value
of it (log 2). The values of `halted`, `fault_code`, `fault_info` are the spec's decision D25 (log 15). -/
def Obligations.ResetValues : Prop :=
  let s := State.reset
  (∀ a (h : a < 80), s.mem.read a = Config.font[a]'h) ∧
  (∀ a, 0x50 ≤ a → s.mem.read a = 0#8) ∧
  (∀ r, s.reg r = 0#8) ∧ s.I = 0#16 ∧ s.pc = 0x200#16 ∧ s.sp = 0 ∧
  (∀ k : Fin 16, s.stack[k.val]'k.isLt = 0#16) ∧ s.dt = 0#8 ∧ s.st = 0#8 ∧
  (∀ k < 2048, s.fbCell k = false) ∧ (∀ k < 16, s.keyDown k = false) ∧ s.redraw = false ∧
  s.halted = false ∧ s.faultCode = 0#3 ∧ s.faultInfo = 0#16

/-- R260: asserting reset gives the reset state whatever the state was (but for the model's own draw counter, log 14), the program,
`halted` and the fault registers included, and opens the load port (log 4). That reset may come at any time is the spec's
decision D25 (log 15). -/
def Obligations.ResetForgetsEverything : Prop :=
  ∀ s : State, ∃ t, hostStep .reset s = some t ∧ But noReg [.draws] State.reset t

/-- R266 to R268: the load copies the image to 0x200 and up and changes nothing else (but the load port, log 4); a second load, a
load once a cycle has run, or an image that does not fit is no step. That a load with the port closed is no step is the spec's
decision D20 (R268), and that a cycle that faults closes the port like any other is the model's choice (log 5). -/
def Obligations.ProgramLoad : Prop :=
  ∀ (s : State) (image : List Byte),
    (s.loadOpen = true → image.length ≤ 3584 → ∃ t, hostStep (.load image) s = some t ∧
      (∀ k (h : k < image.length), t.mem.read (0x200 + k) = image[k]) ∧
      (∀ a, a < 0x200 ∨ 0x200 + image.length ≤ a → t.mem.read a = s.mem.read a) ∧
      t.loadOpen = false ∧ But noReg [.mem, .loadOpen] s t) ∧
    (s.loadOpen = false → hostStep (.load image) s = none) ∧
    (3584 < image.length → hostStep (.load image) s = none) ∧
    (∀ t, s.halted = false → step s = .next t → t.loadOpen = false)

/-- The host sets or clears one key latch and changes nothing else (R31). -/
def Obligations.KeyWriteChangesOneLatch : Prop :=
  ∀ (s : State) (k : Reg) (down : Bool),
    ∃ t, hostStep (.keyWrite k down) s = some t ∧ t.keyDown k.val = down ∧
      (∀ j : Reg, j ≠ k → t.keyDown j.val = s.keyDown j.val) ∧ But noReg [.key] s t

/-- The reset state meets the invariant of Safety.lean. -/
def Obligations.ResetMeetsTheInvariant : Prop := Inv State.reset

/-- Every step keeps the invariant: canonical memory, `pc` at most 0x10FE, stack entries at most 0xFFE, fault registers that record a
fault exactly when halted, and the load port of a halted core closed (log 4, log 5). -/
def Obligations.StepKeepsTheInvariant : Prop := ∀ s t : State, Inv s → step s = .next t → Inv t

/-- The invariant holds in every state that cycles and host moves reach from reset, with any program loaded and any keys pressed. Its
clause that the load port of a halted core is closed is the model's (log 4, log 5), the faults are the spec's decision D7 (log 16),
the load discipline its D20 (log 4), a reset at any time its D25 (log 15). -/
def Obligations.ReachableStatesMeetTheInvariant : Prop := ∀ s : State, Reachable s → Inv s

/-- FX29, then a draw of five rows, shows the digit's glyph of FONT, whatever FONT is (R27, R182, R201): with a digit in Vx, a
font table as reset left it (R274) and a clear screen, a cell of the glyph's 8 by 5 place is on exactly when its bit of FONT is
1 (FONT: log 2). With VF as a coordinate the place is that of the old VF, by the spec's decision D16 (log 15). -/
def Obligations.DigitGlyphComesFromFont : Prop :=
  ∀ (s t u : State) (x a b : Reg) (h : (s.reg x).toNat ≤ 15),
    (∀ k < 80, s.mem.read k = State.reset.mem.read k) → (∀ k < 2048, s.fbCell k = false) →
    exec (.ldF x) s = .next t → exec (.drw a b 5#4) t = .next u →
    ∀ c < 8, ∀ (r : Nat) (hr : r < 5),
      u.fbCell (((s.reg a).toNat + c) % 64 + 64 * (((s.reg b).toNat + r) % 32)) =
        (Config.font[5 * (s.reg x).toNat + r]'(by unfold Config.fontSize; omega)).getLsbD (7 - c)

/-- The host clears `redraw` and changes nothing else (R32, R245). That it may is the spec's decision D33 (log 15). -/
def Obligations.RedrawClearChangesOnlyRedraw : Prop :=
  ∀ s : State, ∃ t, hostStep .clearRedraw s = some t ∧ t.redraw = false ∧ But noReg [.redraw] s t
end

