-- ==== Sys2Proof/Laws/Memory.lean ====
section
/-! SUPPORT. What the memory operations do, said once: a read after a write, the canonical form kept by every operation, and equal
reads making equal memories. -/

namespace Sys2Proof.Machine

theorem Memory.read_insert (m : Memory) (a : Nat) (b : Byte) (c : Nat) :
    Memory.read (m.insert a b) c = if a = c then b else Memory.read m c := by
  induction m with
  | nil => simp [Memory.insert, Memory.read]
  | cons e m ih =>
    obtain ⟨k, d⟩ := e
    simp only [Memory.insert]
    split
    · simp [Memory.read]
    · split
      · subst_vars; simp only [Memory.read]; split <;> rfl
      · simp only [Memory.read, ih]
        split <;> split <;> simp_all

/-- The addresses listed all lie above `a`. -/
def Memory.above (m : Memory) (a : Nat) : Prop := ∀ c ∈ m, a < c.1

theorem Memory.wf_cons {k : Nat} {b : Byte} {m : Memory} :
    Memory.wf ((k, b) :: m) = true ↔ k < 4096 ∧ b ≠ initialByte k ∧ Memory.above m k ∧ Memory.wf m = true := by
  simp only [Memory.wf, Bool.and_eq_true, decide_eq_true_eq, List.all_eq_true, Memory.above, and_assoc]

theorem Memory.read_above {m : Memory} {a : Nat} (h : Memory.above m a) : Memory.read m a = initialByte a := by
  induction m with
  | nil => rfl
  | cons e m ih =>
    obtain ⟨k, d⟩ := e
    have hk : a < k := h (k, d) (by simp)
    simp only [Memory.read, if_neg (show ¬ k = a by omega)]
    exact ih (fun c hc => h c (by simp [hc]))

theorem Memory.above_mono {m : Memory} {a c : Nat} (hac : a ≤ c) (h : Memory.above m c) : Memory.above m a :=
  fun e he => lt_of_le_of_lt hac (h e he)

theorem Memory.read_erase (m : Memory) (a c : Nat) :
    Memory.read (m.erase a) c = if a = c then initialByte c else Memory.read m c := by
  induction m with
  | nil => simp [Memory.erase, Memory.read]
  | cons e m ih =>
    obtain ⟨k, d⟩ := e
    simp only [Memory.erase]
    split
    · subst_vars; rw [ih]; split <;> simp [Memory.read, *]
    · simp only [Memory.read, ih]
      split <;> split <;> simp_all

/-- A read after a write (R62): the written byte at its address, every other address as before. -/
theorem Memory.read_write (m : Memory) (a : Nat) (b : Byte) (c : Nat) :
    Memory.read (m.write a b) c = if a = c ∧ a < 4096 then b else Memory.read m c := by
  unfold Memory.write
  by_cases ha : a < 4096
  · simp only [Config.memSize, ha, if_true, and_true]
    split
    · rw [Memory.read_erase]; split <;> simp_all
    · rw [Memory.read_insert]
  · simp [Config.memSize, ha]

theorem Memory.insert_above {m : Memory} {a k : Nat} {b : Byte} (hk : k < a) (h : Memory.above m k) :
    Memory.above (m.insert a b) k := by
  induction m with
  | nil => simpa [Memory.above, Memory.insert] using hk
  | cons e m ih =>
    obtain ⟨j, d⟩ := e
    have hj : k < j := h (j, d) (by simp)
    have hm : Memory.above m k := fun c hc => h c (by simp [hc])
    simp only [Memory.insert]
    split
    · intro c hc; simp at hc; rcases hc with rfl | rfl | hc
      · exact hk
      · exact hj
      · exact hm c hc
    · split
      · intro c hc; simp at hc; rcases hc with rfl | hc
        · exact hk
        · exact hm c hc
      · intro c hc; simp at hc; rcases hc with rfl | hc
        · exact hj
        · exact ih hm c hc

theorem Memory.insert_wf {m : Memory} (h : m.wf = true) {a : Nat} {b : Byte} (ha : a < 4096) (hb : b ≠ initialByte a) :
    (m.insert a b).wf = true := by
  induction m with
  | nil => exact Memory.wf_cons.2 ⟨ha, hb, by simp [Memory.above], rfl⟩
  | cons e m ih =>
    obtain ⟨k, d⟩ := e
    obtain ⟨hk, hd, hab, hm⟩ := Memory.wf_cons.1 h
    simp only [Memory.insert]
    split
    · refine Memory.wf_cons.2 ⟨ha, hb, ?_, h⟩
      intro c hc; simp at hc; rcases hc with rfl | hc
      · assumption
      · exact lt_trans ‹a < k› (hab c hc)
    · split
      · subst_vars; exact Memory.wf_cons.2 ⟨ha, hb, hab, hm⟩
      · exact Memory.wf_cons.2 ⟨hk, hd, Memory.insert_above (by omega) hab, ih hm⟩

theorem Memory.erase_subset {m : Memory} {a : Nat} {c : Host.Cell} (h : c ∈ m.erase a) : c ∈ m := by
  induction m with
  | nil => simp [Memory.erase] at h
  | cons e m ih =>
    obtain ⟨k, d⟩ := e
    simp only [Memory.erase] at h
    split at h
    · exact List.mem_cons_of_mem _ (ih h)
    · simp at h ⊢; exact h.imp id ih

theorem Memory.erase_wf {m : Memory} (h : m.wf = true) (a : Nat) : (m.erase a).wf = true := by
  induction m with
  | nil => rfl
  | cons e m ih =>
    obtain ⟨k, d⟩ := e
    obtain ⟨hk, hd, hab, hm⟩ := Memory.wf_cons.1 h
    simp only [Memory.erase]
    split
    · exact ih hm
    · exact Memory.wf_cons.2 ⟨hk, hd, fun c hc => hab c (Memory.erase_subset hc), ih hm⟩

/-- A write keeps the canonical form. -/
theorem Memory.write_wf {m : Memory} (h : m.wf = true) (a : Nat) (b : Byte) : (m.write a b).wf = true := by
  unfold Memory.write
  split
  · split
    · exact Memory.erase_wf h a
    · exact Memory.insert_wf h ‹_› ‹_›
  · exact h

/-- A store of bytes keeps the canonical form. -/
theorem Memory.writeBytes_wf {m : Memory} (h : m.wf = true) (a : Nat) (bs : List Byte) :
    (m.writeBytes a bs).wf = true := by
  induction bs generalizing m a with
  | nil => exact h
  | cons b bs ih => exact ih (Memory.write_wf h a b) (a + 1)

/-- A read outside the stored bytes gives what it gave before. -/
theorem Memory.read_writeBytes_outside (m : Memory) (a : Nat) (bs : List Byte) {c : Nat}
    (hc : c < a ∨ a + bs.length ≤ c) : Memory.read (m.writeBytes a bs) c = Memory.read m c := by
  induction bs generalizing m a with
  | nil => rfl
  | cons b bs ih =>
    simp only [Memory.writeBytes]
    rw [ih (m.write a b) (a + 1) (by simp at hc ⊢; omega), Memory.read_write,
      if_neg (by simp at hc; omega)]

/-- A read inside the stored bytes gives the stored byte. -/
theorem Memory.read_writeBytes_inside (m : Memory) (a : Nat) (bs : List Byte)
    (hfit : a + bs.length ≤ 4096) {k : Nat} (hk : k < bs.length) :
    Memory.read (m.writeBytes a bs) (a + k) = bs[k] := by
  induction bs generalizing m a k with
  | nil => simp at hk
  | cons b bs ih =>
    simp only [Memory.writeBytes]
    simp only [List.length_cons] at hfit hk
    cases k with
    | zero =>
      rw [Memory.read_writeBytes_outside _ _ _ (by omega), Memory.read_write,
        if_pos ⟨by omega, by omega⟩]
      simp
    | succ k =>
      rw [show a + (k + 1) = a + 1 + k by omega, ih (m.write a b) (a + 1) (by omega) (by omega)]
      simp

@[simp] theorem Memory.readBytes_length (m : Memory) (a n : Nat) : (m.readBytes a n).length = n := by
  induction n generalizing a with
  | zero => rfl
  | succ n ih => simp [Memory.readBytes, ih]

@[simp] theorem Memory.readBytes_getElem (m : Memory) (a n k : Nat) (h : k < (m.readBytes a n).length) :
    (m.readBytes a n)[k] = m.read (a + k) := by
  induction n generalizing a k with
  | zero => simp [Memory.readBytes] at h
  | succ n ih =>
    cases k with
    | zero => simp [Memory.readBytes]
    | succ k => simp [Memory.readBytes, ih, Nat.add_assoc, Nat.add_comm 1]

/-- Blocks of bytes that read alike are equal. -/
theorem Memory.readBytes_congr {m m' : Memory} {a n : Nat} (h : ∀ k < n, m.read (a + k) = m'.read (a + k)) :
    m.readBytes a n = m'.readBytes a n := by
  apply List.ext_getElem (by simp)
  intro k h1 h2
  simpa using h k (by simpa using h1)

/-- In canonical form, memories that read alike are equal data. -/
theorem Memory.eq_of_reads {m m' : Memory} (h : m.wf = true) (h' : m'.wf = true)
    (e : ∀ a, m.read a = m'.read a) : m = m' := by
  induction m generalizing m' with
  | nil =>
    cases m' with
    | nil => rfl
    | cons c m' =>
      obtain ⟨k, b⟩ := c
      obtain ⟨-, hb, -, -⟩ := Memory.wf_cons.1 h'
      have := e k
      simp only [Memory.read, if_true] at this
      exact absurd this.symm hb
  | cons c m ih =>
    obtain ⟨k, b⟩ := c
    obtain ⟨-, hb, hab, hm⟩ := Memory.wf_cons.1 h
    cases m' with
    | nil =>
      have := e k
      simp only [Memory.read, if_true] at this
      exact absurd this hb
    | cons c' m' =>
      obtain ⟨k', b'⟩ := c'
      obtain ⟨-, hb', hab', hm'⟩ := Memory.wf_cons.1 h'
      rcases lt_trichotomy k k' with hlt | rfl | hlt
      · have he := e k
        simp only [Memory.read, if_true, if_neg (show ¬ k' = k by omega)] at he
        rw [Memory.read_above (Memory.above_mono hlt.le hab')] at he
        exact absurd he hb
      · have hbb := e k
        simp only [Memory.read, if_true] at hbb
        subst hbb
        refine congrArg _ (ih hm hm' fun a => ?_)
        by_cases hka : k = a
        · subst hka; rw [Memory.read_above hab, Memory.read_above hab']
        · have := e a
          simpa only [Memory.read, if_neg hka] using this
      · have he := e k'
        simp only [Memory.read, if_true, if_neg (show ¬ k = k' by omega)] at he
        rw [Memory.read_above (Memory.above_mono hlt.le hab)] at he
        exact absurd he.symm hb'

/-- Below 0x050 an address that nothing has written reads as its byte of FONT. -/
theorem initialByte_font {a : Nat} (h : a < Config.fontSize) : initialByte a = Config.font[a] := by
  simp [initialByte, h]

/-- From 0x050 on it reads as zero. -/
theorem initialByte_high {a : Nat} (h : Config.fontSize ≤ a) : initialByte a = 0#8 := by
  simp [initialByte, Nat.not_lt.2 h]

end Sys2Proof.Machine
end

