-- ==== Sys2Proof/Laws/State.lean ====
section
/-! SUPPORT. One lemma per field per update of the state, true by `rfl`, so that no later proof unfolds a record update; `reg` is
the register file read at one register. -/

namespace Sys2Proof.Machine

/-! ### `setReg` -/

@[simp] theorem State.setReg_V (s : State) (x : Reg) (b : Byte) : (s.setReg x b).V = s.V.set x.val b x.isLt := rfl
@[simp] theorem State.setReg_I (s : State) (x : Reg) (b : Byte) : (s.setReg x b).I = s.I := rfl
@[simp] theorem State.setReg_pc (s : State) (x : Reg) (b : Byte) : (s.setReg x b).pc = s.pc := rfl
@[simp] theorem State.setReg_sp (s : State) (x : Reg) (b : Byte) : (s.setReg x b).sp = s.sp := rfl
@[simp] theorem State.setReg_stack (s : State) (x : Reg) (b : Byte) : (s.setReg x b).stack = s.stack := rfl
@[simp] theorem State.setReg_mem (s : State) (x : Reg) (b : Byte) : (s.setReg x b).mem = s.mem := rfl
@[simp] theorem State.setReg_dt (s : State) (x : Reg) (b : Byte) : (s.setReg x b).dt = s.dt := rfl
@[simp] theorem State.setReg_st (s : State) (x : Reg) (b : Byte) : (s.setReg x b).st = s.st := rfl
@[simp] theorem State.setReg_fb (s : State) (x : Reg) (b : Byte) : (s.setReg x b).fb = s.fb := rfl
@[simp] theorem State.setReg_key (s : State) (x : Reg) (b : Byte) : (s.setReg x b).key = s.key := rfl
@[simp] theorem State.setReg_redraw (s : State) (x : Reg) (b : Byte) : (s.setReg x b).redraw = s.redraw := rfl
@[simp] theorem State.setReg_halted (s : State) (x : Reg) (b : Byte) : (s.setReg x b).halted = s.halted := rfl
@[simp] theorem State.setReg_faultCode (s : State) (x : Reg) (b : Byte) : (s.setReg x b).faultCode = s.faultCode := rfl
@[simp] theorem State.setReg_faultInfo (s : State) (x : Reg) (b : Byte) : (s.setReg x b).faultInfo = s.faultInfo := rfl
@[simp] theorem State.setReg_loadOpen (s : State) (x : Reg) (b : Byte) : (s.setReg x b).loadOpen = s.loadOpen := rfl
@[simp] theorem State.setReg_draws (s : State) (x : Reg) (b : Byte) : (s.setReg x b).draws = s.draws := rfl

/-! ### `setV` -/

@[simp] theorem State.setV_V (s : State) (V : Vector Byte 16) : (s.setV V).V = V := rfl
@[simp] theorem State.setV_I (s : State) (V : Vector Byte 16) : (s.setV V).I = s.I := rfl
@[simp] theorem State.setV_pc (s : State) (V : Vector Byte 16) : (s.setV V).pc = s.pc := rfl
@[simp] theorem State.setV_sp (s : State) (V : Vector Byte 16) : (s.setV V).sp = s.sp := rfl
@[simp] theorem State.setV_stack (s : State) (V : Vector Byte 16) : (s.setV V).stack = s.stack := rfl
@[simp] theorem State.setV_mem (s : State) (V : Vector Byte 16) : (s.setV V).mem = s.mem := rfl
@[simp] theorem State.setV_dt (s : State) (V : Vector Byte 16) : (s.setV V).dt = s.dt := rfl
@[simp] theorem State.setV_st (s : State) (V : Vector Byte 16) : (s.setV V).st = s.st := rfl
@[simp] theorem State.setV_fb (s : State) (V : Vector Byte 16) : (s.setV V).fb = s.fb := rfl
@[simp] theorem State.setV_key (s : State) (V : Vector Byte 16) : (s.setV V).key = s.key := rfl
@[simp] theorem State.setV_redraw (s : State) (V : Vector Byte 16) : (s.setV V).redraw = s.redraw := rfl
@[simp] theorem State.setV_halted (s : State) (V : Vector Byte 16) : (s.setV V).halted = s.halted := rfl
@[simp] theorem State.setV_faultCode (s : State) (V : Vector Byte 16) : (s.setV V).faultCode = s.faultCode := rfl
@[simp] theorem State.setV_faultInfo (s : State) (V : Vector Byte 16) : (s.setV V).faultInfo = s.faultInfo := rfl
@[simp] theorem State.setV_loadOpen (s : State) (V : Vector Byte 16) : (s.setV V).loadOpen = s.loadOpen := rfl
@[simp] theorem State.setV_draws (s : State) (V : Vector Byte 16) : (s.setV V).draws = s.draws := rfl

/-! ### `setI` -/

@[simp] theorem State.setI_V (s : State) (w : Word) : (s.setI w).V = s.V := rfl
@[simp] theorem State.setI_I (s : State) (w : Word) : (s.setI w).I = w := rfl
@[simp] theorem State.setI_pc (s : State) (w : Word) : (s.setI w).pc = s.pc := rfl
@[simp] theorem State.setI_sp (s : State) (w : Word) : (s.setI w).sp = s.sp := rfl
@[simp] theorem State.setI_stack (s : State) (w : Word) : (s.setI w).stack = s.stack := rfl
@[simp] theorem State.setI_mem (s : State) (w : Word) : (s.setI w).mem = s.mem := rfl
@[simp] theorem State.setI_dt (s : State) (w : Word) : (s.setI w).dt = s.dt := rfl
@[simp] theorem State.setI_st (s : State) (w : Word) : (s.setI w).st = s.st := rfl
@[simp] theorem State.setI_fb (s : State) (w : Word) : (s.setI w).fb = s.fb := rfl
@[simp] theorem State.setI_key (s : State) (w : Word) : (s.setI w).key = s.key := rfl
@[simp] theorem State.setI_redraw (s : State) (w : Word) : (s.setI w).redraw = s.redraw := rfl
@[simp] theorem State.setI_halted (s : State) (w : Word) : (s.setI w).halted = s.halted := rfl
@[simp] theorem State.setI_faultCode (s : State) (w : Word) : (s.setI w).faultCode = s.faultCode := rfl
@[simp] theorem State.setI_faultInfo (s : State) (w : Word) : (s.setI w).faultInfo = s.faultInfo := rfl
@[simp] theorem State.setI_loadOpen (s : State) (w : Word) : (s.setI w).loadOpen = s.loadOpen := rfl
@[simp] theorem State.setI_draws (s : State) (w : Word) : (s.setI w).draws = s.draws := rfl
@[simp] theorem State.setI_reg (s : State) (w : Word) (r : Reg) : (s.setI w).reg r = s.reg r := rfl

/-! ### `setMem` -/

@[simp] theorem State.setMem_V (s : State) (m : Memory) : (s.setMem m).V = s.V := rfl
@[simp] theorem State.setMem_I (s : State) (m : Memory) : (s.setMem m).I = s.I := rfl
@[simp] theorem State.setMem_pc (s : State) (m : Memory) : (s.setMem m).pc = s.pc := rfl
@[simp] theorem State.setMem_sp (s : State) (m : Memory) : (s.setMem m).sp = s.sp := rfl
@[simp] theorem State.setMem_stack (s : State) (m : Memory) : (s.setMem m).stack = s.stack := rfl
@[simp] theorem State.setMem_mem (s : State) (m : Memory) : (s.setMem m).mem = m := rfl
@[simp] theorem State.setMem_dt (s : State) (m : Memory) : (s.setMem m).dt = s.dt := rfl
@[simp] theorem State.setMem_st (s : State) (m : Memory) : (s.setMem m).st = s.st := rfl
@[simp] theorem State.setMem_fb (s : State) (m : Memory) : (s.setMem m).fb = s.fb := rfl
@[simp] theorem State.setMem_key (s : State) (m : Memory) : (s.setMem m).key = s.key := rfl
@[simp] theorem State.setMem_redraw (s : State) (m : Memory) : (s.setMem m).redraw = s.redraw := rfl
@[simp] theorem State.setMem_halted (s : State) (m : Memory) : (s.setMem m).halted = s.halted := rfl
@[simp] theorem State.setMem_faultCode (s : State) (m : Memory) : (s.setMem m).faultCode = s.faultCode := rfl
@[simp] theorem State.setMem_faultInfo (s : State) (m : Memory) : (s.setMem m).faultInfo = s.faultInfo := rfl
@[simp] theorem State.setMem_loadOpen (s : State) (m : Memory) : (s.setMem m).loadOpen = s.loadOpen := rfl
@[simp] theorem State.setMem_draws (s : State) (m : Memory) : (s.setMem m).draws = s.draws := rfl
@[simp] theorem State.setMem_reg (s : State) (m : Memory) (r : Reg) : (s.setMem m).reg r = s.reg r := rfl

/-! ### `setDT` -/

@[simp] theorem State.setDT_V (s : State) (b : Byte) : (s.setDT b).V = s.V := rfl
@[simp] theorem State.setDT_I (s : State) (b : Byte) : (s.setDT b).I = s.I := rfl
@[simp] theorem State.setDT_pc (s : State) (b : Byte) : (s.setDT b).pc = s.pc := rfl
@[simp] theorem State.setDT_sp (s : State) (b : Byte) : (s.setDT b).sp = s.sp := rfl
@[simp] theorem State.setDT_stack (s : State) (b : Byte) : (s.setDT b).stack = s.stack := rfl
@[simp] theorem State.setDT_mem (s : State) (b : Byte) : (s.setDT b).mem = s.mem := rfl
@[simp] theorem State.setDT_dt (s : State) (b : Byte) : (s.setDT b).dt = b := rfl
@[simp] theorem State.setDT_st (s : State) (b : Byte) : (s.setDT b).st = s.st := rfl
@[simp] theorem State.setDT_fb (s : State) (b : Byte) : (s.setDT b).fb = s.fb := rfl
@[simp] theorem State.setDT_key (s : State) (b : Byte) : (s.setDT b).key = s.key := rfl
@[simp] theorem State.setDT_redraw (s : State) (b : Byte) : (s.setDT b).redraw = s.redraw := rfl
@[simp] theorem State.setDT_halted (s : State) (b : Byte) : (s.setDT b).halted = s.halted := rfl
@[simp] theorem State.setDT_faultCode (s : State) (b : Byte) : (s.setDT b).faultCode = s.faultCode := rfl
@[simp] theorem State.setDT_faultInfo (s : State) (b : Byte) : (s.setDT b).faultInfo = s.faultInfo := rfl
@[simp] theorem State.setDT_loadOpen (s : State) (b : Byte) : (s.setDT b).loadOpen = s.loadOpen := rfl
@[simp] theorem State.setDT_draws (s : State) (b : Byte) : (s.setDT b).draws = s.draws := rfl
@[simp] theorem State.setDT_reg (s : State) (b : Byte) (r : Reg) : (s.setDT b).reg r = s.reg r := rfl

/-! ### `setST` -/

@[simp] theorem State.setST_V (s : State) (b : Byte) : (s.setST b).V = s.V := rfl
@[simp] theorem State.setST_I (s : State) (b : Byte) : (s.setST b).I = s.I := rfl
@[simp] theorem State.setST_pc (s : State) (b : Byte) : (s.setST b).pc = s.pc := rfl
@[simp] theorem State.setST_sp (s : State) (b : Byte) : (s.setST b).sp = s.sp := rfl
@[simp] theorem State.setST_stack (s : State) (b : Byte) : (s.setST b).stack = s.stack := rfl
@[simp] theorem State.setST_mem (s : State) (b : Byte) : (s.setST b).mem = s.mem := rfl
@[simp] theorem State.setST_dt (s : State) (b : Byte) : (s.setST b).dt = s.dt := rfl
@[simp] theorem State.setST_st (s : State) (b : Byte) : (s.setST b).st = b := rfl
@[simp] theorem State.setST_fb (s : State) (b : Byte) : (s.setST b).fb = s.fb := rfl
@[simp] theorem State.setST_key (s : State) (b : Byte) : (s.setST b).key = s.key := rfl
@[simp] theorem State.setST_redraw (s : State) (b : Byte) : (s.setST b).redraw = s.redraw := rfl
@[simp] theorem State.setST_halted (s : State) (b : Byte) : (s.setST b).halted = s.halted := rfl
@[simp] theorem State.setST_faultCode (s : State) (b : Byte) : (s.setST b).faultCode = s.faultCode := rfl
@[simp] theorem State.setST_faultInfo (s : State) (b : Byte) : (s.setST b).faultInfo = s.faultInfo := rfl
@[simp] theorem State.setST_loadOpen (s : State) (b : Byte) : (s.setST b).loadOpen = s.loadOpen := rfl
@[simp] theorem State.setST_draws (s : State) (b : Byte) : (s.setST b).draws = s.draws := rfl
@[simp] theorem State.setST_reg (s : State) (b : Byte) (r : Reg) : (s.setST b).reg r = s.reg r := rfl

/-! ### `setFb` -/

@[simp] theorem State.setFb_V (s : State) (f : Screen) : (s.setFb f).V = s.V := rfl
@[simp] theorem State.setFb_I (s : State) (f : Screen) : (s.setFb f).I = s.I := rfl
@[simp] theorem State.setFb_pc (s : State) (f : Screen) : (s.setFb f).pc = s.pc := rfl
@[simp] theorem State.setFb_sp (s : State) (f : Screen) : (s.setFb f).sp = s.sp := rfl
@[simp] theorem State.setFb_stack (s : State) (f : Screen) : (s.setFb f).stack = s.stack := rfl
@[simp] theorem State.setFb_mem (s : State) (f : Screen) : (s.setFb f).mem = s.mem := rfl
@[simp] theorem State.setFb_dt (s : State) (f : Screen) : (s.setFb f).dt = s.dt := rfl
@[simp] theorem State.setFb_st (s : State) (f : Screen) : (s.setFb f).st = s.st := rfl
@[simp] theorem State.setFb_fb (s : State) (f : Screen) : (s.setFb f).fb = f := rfl
@[simp] theorem State.setFb_key (s : State) (f : Screen) : (s.setFb f).key = s.key := rfl
@[simp] theorem State.setFb_redraw (s : State) (f : Screen) : (s.setFb f).redraw = s.redraw := rfl
@[simp] theorem State.setFb_halted (s : State) (f : Screen) : (s.setFb f).halted = s.halted := rfl
@[simp] theorem State.setFb_faultCode (s : State) (f : Screen) : (s.setFb f).faultCode = s.faultCode := rfl
@[simp] theorem State.setFb_faultInfo (s : State) (f : Screen) : (s.setFb f).faultInfo = s.faultInfo := rfl
@[simp] theorem State.setFb_loadOpen (s : State) (f : Screen) : (s.setFb f).loadOpen = s.loadOpen := rfl
@[simp] theorem State.setFb_draws (s : State) (f : Screen) : (s.setFb f).draws = s.draws := rfl
@[simp] theorem State.setFb_reg (s : State) (f : Screen) (r : Reg) : (s.setFb f).reg r = s.reg r := rfl

/-! ### `setRedraw` -/

@[simp] theorem State.setRedraw_V (s : State) (b : Bool) : (s.setRedraw b).V = s.V := rfl
@[simp] theorem State.setRedraw_I (s : State) (b : Bool) : (s.setRedraw b).I = s.I := rfl
@[simp] theorem State.setRedraw_pc (s : State) (b : Bool) : (s.setRedraw b).pc = s.pc := rfl
@[simp] theorem State.setRedraw_sp (s : State) (b : Bool) : (s.setRedraw b).sp = s.sp := rfl
@[simp] theorem State.setRedraw_stack (s : State) (b : Bool) : (s.setRedraw b).stack = s.stack := rfl
@[simp] theorem State.setRedraw_mem (s : State) (b : Bool) : (s.setRedraw b).mem = s.mem := rfl
@[simp] theorem State.setRedraw_dt (s : State) (b : Bool) : (s.setRedraw b).dt = s.dt := rfl
@[simp] theorem State.setRedraw_st (s : State) (b : Bool) : (s.setRedraw b).st = s.st := rfl
@[simp] theorem State.setRedraw_fb (s : State) (b : Bool) : (s.setRedraw b).fb = s.fb := rfl
@[simp] theorem State.setRedraw_key (s : State) (b : Bool) : (s.setRedraw b).key = s.key := rfl
@[simp] theorem State.setRedraw_redraw (s : State) (b : Bool) : (s.setRedraw b).redraw = b := rfl
@[simp] theorem State.setRedraw_halted (s : State) (b : Bool) : (s.setRedraw b).halted = s.halted := rfl
@[simp] theorem State.setRedraw_faultCode (s : State) (b : Bool) : (s.setRedraw b).faultCode = s.faultCode := rfl
@[simp] theorem State.setRedraw_faultInfo (s : State) (b : Bool) : (s.setRedraw b).faultInfo = s.faultInfo := rfl
@[simp] theorem State.setRedraw_loadOpen (s : State) (b : Bool) : (s.setRedraw b).loadOpen = s.loadOpen := rfl
@[simp] theorem State.setRedraw_draws (s : State) (b : Bool) : (s.setRedraw b).draws = s.draws := rfl
@[simp] theorem State.setRedraw_reg (s : State) (b : Bool) (r : Reg) : (s.setRedraw b).reg r = s.reg r := rfl

/-! ### `advance` -/

@[simp] theorem State.advance_V (s : State) (k : Nat) : (s.advance k).V = s.V := rfl
@[simp] theorem State.advance_I (s : State) (k : Nat) : (s.advance k).I = s.I := rfl
@[simp] theorem State.advance_pc (s : State) (k : Nat) : (s.advance k).pc = s.pc + BitVec.ofNat 16 k := rfl
@[simp] theorem State.advance_sp (s : State) (k : Nat) : (s.advance k).sp = s.sp := rfl
@[simp] theorem State.advance_stack (s : State) (k : Nat) : (s.advance k).stack = s.stack := rfl
@[simp] theorem State.advance_mem (s : State) (k : Nat) : (s.advance k).mem = s.mem := rfl
@[simp] theorem State.advance_dt (s : State) (k : Nat) : (s.advance k).dt = s.dt := rfl
@[simp] theorem State.advance_st (s : State) (k : Nat) : (s.advance k).st = s.st := rfl
@[simp] theorem State.advance_fb (s : State) (k : Nat) : (s.advance k).fb = s.fb := rfl
@[simp] theorem State.advance_key (s : State) (k : Nat) : (s.advance k).key = s.key := rfl
@[simp] theorem State.advance_redraw (s : State) (k : Nat) : (s.advance k).redraw = s.redraw := rfl
@[simp] theorem State.advance_halted (s : State) (k : Nat) : (s.advance k).halted = s.halted := rfl
@[simp] theorem State.advance_faultCode (s : State) (k : Nat) : (s.advance k).faultCode = s.faultCode := rfl
@[simp] theorem State.advance_faultInfo (s : State) (k : Nat) : (s.advance k).faultInfo = s.faultInfo := rfl
@[simp] theorem State.advance_loadOpen (s : State) (k : Nat) : (s.advance k).loadOpen = s.loadOpen := rfl
@[simp] theorem State.advance_draws (s : State) (k : Nat) : (s.advance k).draws = s.draws := rfl
@[simp] theorem State.advance_reg (s : State) (k : Nat) (r : Reg) : (s.advance k).reg r = s.reg r := rfl

/-! ### `jump` -/

@[simp] theorem State.jump_V (s : State) (w : Word) : (s.jump w).V = s.V := rfl
@[simp] theorem State.jump_I (s : State) (w : Word) : (s.jump w).I = s.I := rfl
@[simp] theorem State.jump_pc (s : State) (w : Word) : (s.jump w).pc = w := rfl
@[simp] theorem State.jump_sp (s : State) (w : Word) : (s.jump w).sp = s.sp := rfl
@[simp] theorem State.jump_stack (s : State) (w : Word) : (s.jump w).stack = s.stack := rfl
@[simp] theorem State.jump_mem (s : State) (w : Word) : (s.jump w).mem = s.mem := rfl
@[simp] theorem State.jump_dt (s : State) (w : Word) : (s.jump w).dt = s.dt := rfl
@[simp] theorem State.jump_st (s : State) (w : Word) : (s.jump w).st = s.st := rfl
@[simp] theorem State.jump_fb (s : State) (w : Word) : (s.jump w).fb = s.fb := rfl
@[simp] theorem State.jump_key (s : State) (w : Word) : (s.jump w).key = s.key := rfl
@[simp] theorem State.jump_redraw (s : State) (w : Word) : (s.jump w).redraw = s.redraw := rfl
@[simp] theorem State.jump_halted (s : State) (w : Word) : (s.jump w).halted = s.halted := rfl
@[simp] theorem State.jump_faultCode (s : State) (w : Word) : (s.jump w).faultCode = s.faultCode := rfl
@[simp] theorem State.jump_faultInfo (s : State) (w : Word) : (s.jump w).faultInfo = s.faultInfo := rfl
@[simp] theorem State.jump_loadOpen (s : State) (w : Word) : (s.jump w).loadOpen = s.loadOpen := rfl
@[simp] theorem State.jump_draws (s : State) (w : Word) : (s.jump w).draws = s.draws := rfl
@[simp] theorem State.jump_reg (s : State) (w : Word) (r : Reg) : (s.jump w).reg r = s.reg r := rfl

/-! ### `haltWith` -/

@[simp] theorem State.haltWith_V (s : State) (c : BitVec 3) (w : Word) : (s.haltWith c w).V = s.V := rfl
@[simp] theorem State.haltWith_I (s : State) (c : BitVec 3) (w : Word) : (s.haltWith c w).I = s.I := rfl
@[simp] theorem State.haltWith_pc (s : State) (c : BitVec 3) (w : Word) : (s.haltWith c w).pc = s.pc := rfl
@[simp] theorem State.haltWith_sp (s : State) (c : BitVec 3) (w : Word) : (s.haltWith c w).sp = s.sp := rfl
@[simp] theorem State.haltWith_stack (s : State) (c : BitVec 3) (w : Word) : (s.haltWith c w).stack = s.stack := rfl
@[simp] theorem State.haltWith_mem (s : State) (c : BitVec 3) (w : Word) : (s.haltWith c w).mem = s.mem := rfl
@[simp] theorem State.haltWith_dt (s : State) (c : BitVec 3) (w : Word) : (s.haltWith c w).dt = s.dt := rfl
@[simp] theorem State.haltWith_st (s : State) (c : BitVec 3) (w : Word) : (s.haltWith c w).st = s.st := rfl
@[simp] theorem State.haltWith_fb (s : State) (c : BitVec 3) (w : Word) : (s.haltWith c w).fb = s.fb := rfl
@[simp] theorem State.haltWith_key (s : State) (c : BitVec 3) (w : Word) : (s.haltWith c w).key = s.key := rfl
@[simp] theorem State.haltWith_redraw (s : State) (c : BitVec 3) (w : Word) : (s.haltWith c w).redraw = s.redraw := rfl
@[simp] theorem State.haltWith_halted (s : State) (c : BitVec 3) (w : Word) : (s.haltWith c w).halted = true := rfl
@[simp] theorem State.haltWith_faultCode (s : State) (c : BitVec 3) (w : Word) : (s.haltWith c w).faultCode = c := rfl
@[simp] theorem State.haltWith_faultInfo (s : State) (c : BitVec 3) (w : Word) : (s.haltWith c w).faultInfo = w := rfl
@[simp] theorem State.haltWith_loadOpen (s : State) (c : BitVec 3) (w : Word) : (s.haltWith c w).loadOpen = s.loadOpen := rfl
@[simp] theorem State.haltWith_draws (s : State) (c : BitVec 3) (w : Word) : (s.haltWith c w).draws = s.draws := rfl
@[simp] theorem State.haltWith_reg (s : State) (c : BitVec 3) (w : Word) (r : Reg) : (s.haltWith c w).reg r = s.reg r := rfl

/-! ### `countDraw` -/

@[simp] theorem State.countDraw_V (s : State) : (s.countDraw).V = s.V := rfl
@[simp] theorem State.countDraw_I (s : State) : (s.countDraw).I = s.I := rfl
@[simp] theorem State.countDraw_pc (s : State) : (s.countDraw).pc = s.pc := rfl
@[simp] theorem State.countDraw_sp (s : State) : (s.countDraw).sp = s.sp := rfl
@[simp] theorem State.countDraw_stack (s : State) : (s.countDraw).stack = s.stack := rfl
@[simp] theorem State.countDraw_mem (s : State) : (s.countDraw).mem = s.mem := rfl
@[simp] theorem State.countDraw_dt (s : State) : (s.countDraw).dt = s.dt := rfl
@[simp] theorem State.countDraw_st (s : State) : (s.countDraw).st = s.st := rfl
@[simp] theorem State.countDraw_fb (s : State) : (s.countDraw).fb = s.fb := rfl
@[simp] theorem State.countDraw_key (s : State) : (s.countDraw).key = s.key := rfl
@[simp] theorem State.countDraw_redraw (s : State) : (s.countDraw).redraw = s.redraw := rfl
@[simp] theorem State.countDraw_halted (s : State) : (s.countDraw).halted = s.halted := rfl
@[simp] theorem State.countDraw_faultCode (s : State) : (s.countDraw).faultCode = s.faultCode := rfl
@[simp] theorem State.countDraw_faultInfo (s : State) : (s.countDraw).faultInfo = s.faultInfo := rfl
@[simp] theorem State.countDraw_loadOpen (s : State) : (s.countDraw).loadOpen = s.loadOpen := rfl
@[simp] theorem State.countDraw_draws (s : State) : (s.countDraw).draws = s.draws + 1 := rfl
@[simp] theorem State.countDraw_reg (s : State) (r : Reg) : (s.countDraw).reg r = s.reg r := rfl

/-! ### `tick` -/

@[simp] theorem State.tick_V (s : State) : (s.tick).V = s.V := rfl
@[simp] theorem State.tick_I (s : State) : (s.tick).I = s.I := rfl
@[simp] theorem State.tick_pc (s : State) : (s.tick).pc = s.pc := rfl
@[simp] theorem State.tick_sp (s : State) : (s.tick).sp = s.sp := rfl
@[simp] theorem State.tick_stack (s : State) : (s.tick).stack = s.stack := rfl
@[simp] theorem State.tick_mem (s : State) : (s.tick).mem = s.mem := rfl
@[simp] theorem State.tick_dt (s : State) : (s.tick).dt = countDown s.dt := rfl
@[simp] theorem State.tick_st (s : State) : (s.tick).st = countDown s.st := rfl
@[simp] theorem State.tick_fb (s : State) : (s.tick).fb = s.fb := rfl
@[simp] theorem State.tick_key (s : State) : (s.tick).key = s.key := rfl
@[simp] theorem State.tick_redraw (s : State) : (s.tick).redraw = s.redraw := rfl
@[simp] theorem State.tick_halted (s : State) : (s.tick).halted = s.halted := rfl
@[simp] theorem State.tick_faultCode (s : State) : (s.tick).faultCode = s.faultCode := rfl
@[simp] theorem State.tick_faultInfo (s : State) : (s.tick).faultInfo = s.faultInfo := rfl
@[simp] theorem State.tick_loadOpen (s : State) : (s.tick).loadOpen = s.loadOpen := rfl
@[simp] theorem State.tick_draws (s : State) : (s.tick).draws = s.draws := rfl
@[simp] theorem State.tick_reg (s : State) (r : Reg) : (s.tick).reg r = s.reg r := rfl

/-! ### `closeLoad` -/

@[simp] theorem State.closeLoad_V (s : State) : (s.closeLoad).V = s.V := rfl
@[simp] theorem State.closeLoad_I (s : State) : (s.closeLoad).I = s.I := rfl
@[simp] theorem State.closeLoad_pc (s : State) : (s.closeLoad).pc = s.pc := rfl
@[simp] theorem State.closeLoad_sp (s : State) : (s.closeLoad).sp = s.sp := rfl
@[simp] theorem State.closeLoad_stack (s : State) : (s.closeLoad).stack = s.stack := rfl
@[simp] theorem State.closeLoad_mem (s : State) : (s.closeLoad).mem = s.mem := rfl
@[simp] theorem State.closeLoad_dt (s : State) : (s.closeLoad).dt = s.dt := rfl
@[simp] theorem State.closeLoad_st (s : State) : (s.closeLoad).st = s.st := rfl
@[simp] theorem State.closeLoad_fb (s : State) : (s.closeLoad).fb = s.fb := rfl
@[simp] theorem State.closeLoad_key (s : State) : (s.closeLoad).key = s.key := rfl
@[simp] theorem State.closeLoad_redraw (s : State) : (s.closeLoad).redraw = s.redraw := rfl
@[simp] theorem State.closeLoad_halted (s : State) : (s.closeLoad).halted = s.halted := rfl
@[simp] theorem State.closeLoad_faultCode (s : State) : (s.closeLoad).faultCode = s.faultCode := rfl
@[simp] theorem State.closeLoad_faultInfo (s : State) : (s.closeLoad).faultInfo = s.faultInfo := rfl
@[simp] theorem State.closeLoad_loadOpen (s : State) : (s.closeLoad).loadOpen = false := rfl
@[simp] theorem State.closeLoad_draws (s : State) : (s.closeLoad).draws = s.draws := rfl
@[simp] theorem State.closeLoad_reg (s : State) (r : Reg) : (s.closeLoad).reg r = s.reg r := rfl

/-! ### `clearRedraw` -/

@[simp] theorem State.clearRedraw_V (s : State) : (s.clearRedraw).V = s.V := rfl
@[simp] theorem State.clearRedraw_I (s : State) : (s.clearRedraw).I = s.I := rfl
@[simp] theorem State.clearRedraw_pc (s : State) : (s.clearRedraw).pc = s.pc := rfl
@[simp] theorem State.clearRedraw_sp (s : State) : (s.clearRedraw).sp = s.sp := rfl
@[simp] theorem State.clearRedraw_stack (s : State) : (s.clearRedraw).stack = s.stack := rfl
@[simp] theorem State.clearRedraw_mem (s : State) : (s.clearRedraw).mem = s.mem := rfl
@[simp] theorem State.clearRedraw_dt (s : State) : (s.clearRedraw).dt = s.dt := rfl
@[simp] theorem State.clearRedraw_st (s : State) : (s.clearRedraw).st = s.st := rfl
@[simp] theorem State.clearRedraw_fb (s : State) : (s.clearRedraw).fb = s.fb := rfl
@[simp] theorem State.clearRedraw_key (s : State) : (s.clearRedraw).key = s.key := rfl
@[simp] theorem State.clearRedraw_redraw (s : State) : (s.clearRedraw).redraw = false := rfl
@[simp] theorem State.clearRedraw_halted (s : State) : (s.clearRedraw).halted = s.halted := rfl
@[simp] theorem State.clearRedraw_faultCode (s : State) : (s.clearRedraw).faultCode = s.faultCode := rfl
@[simp] theorem State.clearRedraw_faultInfo (s : State) : (s.clearRedraw).faultInfo = s.faultInfo := rfl
@[simp] theorem State.clearRedraw_loadOpen (s : State) : (s.clearRedraw).loadOpen = s.loadOpen := rfl
@[simp] theorem State.clearRedraw_draws (s : State) : (s.clearRedraw).draws = s.draws := rfl
@[simp] theorem State.clearRedraw_reg (s : State) (r : Reg) : (s.clearRedraw).reg r = s.reg r := rfl

/-! ### `writeKey` -/

@[simp] theorem State.writeKey_V (s : State) (k : Reg) (d : Bool) : (s.writeKey k d).V = s.V := rfl
@[simp] theorem State.writeKey_I (s : State) (k : Reg) (d : Bool) : (s.writeKey k d).I = s.I := rfl
@[simp] theorem State.writeKey_pc (s : State) (k : Reg) (d : Bool) : (s.writeKey k d).pc = s.pc := rfl
@[simp] theorem State.writeKey_sp (s : State) (k : Reg) (d : Bool) : (s.writeKey k d).sp = s.sp := rfl
@[simp] theorem State.writeKey_stack (s : State) (k : Reg) (d : Bool) : (s.writeKey k d).stack = s.stack := rfl
@[simp] theorem State.writeKey_mem (s : State) (k : Reg) (d : Bool) : (s.writeKey k d).mem = s.mem := rfl
@[simp] theorem State.writeKey_dt (s : State) (k : Reg) (d : Bool) : (s.writeKey k d).dt = s.dt := rfl
@[simp] theorem State.writeKey_st (s : State) (k : Reg) (d : Bool) : (s.writeKey k d).st = s.st := rfl
@[simp] theorem State.writeKey_fb (s : State) (k : Reg) (d : Bool) : (s.writeKey k d).fb = s.fb := rfl
@[simp] theorem State.writeKey_redraw (s : State) (k : Reg) (d : Bool) : (s.writeKey k d).redraw = s.redraw := rfl
@[simp] theorem State.writeKey_halted (s : State) (k : Reg) (d : Bool) : (s.writeKey k d).halted = s.halted := rfl
@[simp] theorem State.writeKey_faultCode (s : State) (k : Reg) (d : Bool) : (s.writeKey k d).faultCode = s.faultCode := rfl
@[simp] theorem State.writeKey_faultInfo (s : State) (k : Reg) (d : Bool) : (s.writeKey k d).faultInfo = s.faultInfo := rfl
@[simp] theorem State.writeKey_loadOpen (s : State) (k : Reg) (d : Bool) : (s.writeKey k d).loadOpen = s.loadOpen := rfl
@[simp] theorem State.writeKey_draws (s : State) (k : Reg) (d : Bool) : (s.writeKey k d).draws = s.draws := rfl
@[simp] theorem State.writeKey_reg (s : State) (k : Reg) (d : Bool) (r : Reg) : (s.writeKey k d).reg r = s.reg r := rfl

end Sys2Proof.Machine
end

