-- ==== Sys2Proof/Laws/Ops.lean ====
section
/-! SUPPORT. One lemma per shared operation that says once everything it can do. -/

namespace Sys2Proof.Machine

/-! ### Registers -/

/-- A register reads what was last written to it; the others read as before. -/
@[simp] theorem State.setReg_reg (s : State) (x r : Reg) (b : Byte) :
    (s.setReg x b).reg r = if r = x then b else s.reg r := by
  by_cases h : r = x
  · subst h; simp [State.reg]
  · have : x.val ≠ r.val := fun e => h (Fin.ext e.symm)
    simp [State.reg, h, this]

/-- What loading a block of registers leaves in each: the byte loaded, or the old value outside the block. -/
theorem setRegBlock_getElem (V : Vector Byte 16) (k : Nat) (bs : List Byte) (j : Nat) (hj : j < 16) :
    (setRegBlock V k bs)[j] = if h : k ≤ j ∧ j < k + bs.length then bs[j - k]'(by omega) else V[j] := by
  induction bs generalizing V k with
  | nil => simp [setRegBlock, show ¬ (k ≤ j ∧ j < k) by omega]
  | cons b bs ih =>
    simp only [setRegBlock, ih, List.length_cons]
    by_cases h1 : k + 1 ≤ j ∧ j < k + 1 + bs.length
    · rw [dif_pos h1, dif_pos (show k ≤ j ∧ j < k + (bs.length + 1) by omega), List.getElem_cons,
        dif_neg (show ¬ j - k = 0 by omega)]
      congr 1
    · rw [dif_neg h1]
      by_cases h2 : j = k
      · subst h2; simp
      · rw [dif_neg (show ¬ (k ≤ j ∧ j < k + (bs.length + 1)) by omega), Vector.getElem_setIfInBounds]
        rw [if_neg (fun e => h2 e.symm)]

@[simp] theorem State.setV_reg (s : State) (V : Vector Byte 16) (r : Reg) : (s.setV V).reg r = V[r.val]'r.isLt := rfl

@[simp] theorem State.regBlock_length (s : State) (x : Reg) : (s.regBlock x).length = x.val + 1 := by
  simp [State.regBlock]

@[simp] theorem State.regBlock_getElem (s : State) (x : Reg) (k : Nat) (h : k < (s.regBlock x).length) :
    (s.regBlock x)[k] = s.reg ⟨k, by simp at h; omega⟩ := by
  simp [State.regBlock, State.reg]

@[simp] theorem State.load_reg (s : State) (x r : Reg) (b : Byte) :
    (s.load x b).reg r = if r = x then b else s.reg r := by simp [State.load]

/-- What a flag-writing instruction leaves in each register (R172): the result in `x`, computed with the new flag where VF is an
operand; the flag in VF unless `x` is VF; the others untouched. -/
theorem State.flagThen_reg (s : State) (f : Byte) (op : Byte → Byte → Byte) (x y r : Reg) :
    (s.flagThen f op x y).reg r =
      if r = x then op (if x = VF then f else s.reg x) (if y = VF then f else s.reg y)
      else if r = VF then f else s.reg r := by
  simp [State.flagThen]

/-! ### Ranges -/

/-- The range test of R64, on unbounded naturals. -/
theorem State.accessFits_iff (s : State) (n : Nat) :
    s.accessFits n = true ↔ n = 0 ∨ s.base + n - 1 ≤ 0xFFF := by
  simp [State.accessFits]

/-! ### Stack -/

/-- A push succeeds exactly when a slot is free, and then writes it and counts it. -/
theorem State.push_eq (s : State) (w : Word) (h : s.sp.val < 16) :
    s.push w = some { s with stack := s.stack.set s.sp.val w h, sp := ⟨s.sp.val + 1, by omega⟩ } := by
  simp [State.push, h]

theorem State.push_full (s : State) (w : Word) (h : s.sp.val = 16) : s.push w = none := by
  simp [State.push, h]

/-- A pop succeeds exactly when a slot is in use. -/
theorem State.pop_eq (s : State) (h : 0 < s.sp.val) :
    s.pop = some (s.stack[s.sp.val - 1]'(by omega), { s with sp := ⟨s.sp.val - 1, by omega⟩ }) := by
  simp [State.pop, h]

theorem State.pop_empty (s : State) (h : s.sp.val = 0) : s.pop = none := by
  simp [State.pop, h]

/-- Everything a push that succeeds has done. -/
theorem State.push_some {s t : State} {w : Word} (h : s.push w = some t) :
    ∃ hs : s.sp.val < 16, t = { s with stack := s.stack.set s.sp.val w hs, sp := ⟨s.sp.val + 1, by omega⟩ } := by
  by_cases hs : s.sp.val < 16
  · rw [State.push_eq s w hs] at h
    exact ⟨hs, by simpa using h.symm⟩
  · simp [State.push, hs] at h

/-- Everything a pop that succeeds has done. -/
theorem State.pop_some {s t : State} {w : Word} (h : s.pop = some (w, t)) :
    ∃ hs : 0 < s.sp.val, w = s.stack[s.sp.val - 1]'(by omega) ∧
      t = { s with sp := ⟨s.sp.val - 1, by omega⟩ } := by
  by_cases hs : 0 < s.sp.val
  · rw [State.pop_eq s hs] at h
    simp only [Option.some.injEq, Prod.mk.injEq] at h
    exact ⟨hs, h.1.symm, h.2.symm⟩
  · simp [State.pop, hs] at h

/-! ### The store at `I` -/

/-- A store at `I` either stores its bytes and moves on, or raises MEM_RANGE. -/
theorem State.storeAtIndex_cases {s t : State} {bs : List Byte} (h : s.storeAtIndex bs = .next t) :
    (s.accessFits bs.length = true ∧ t = (s.setMem (s.mem.writeBytes s.base bs)).advance 2) ∨
    (s.accessFits bs.length = false ∧ t = s.haltWith FaultKind.memRange.code s.I) := by
  unfold State.storeAtIndex at h
  split at h
  · exact .inl ⟨‹_›, by simpa using h.symm⟩
  · exact .inr ⟨Bool.not_eq_true _ ▸ ‹¬ _›, by simpa [State.raise] using h.symm⟩

/-! ### The key scan -/

/-- The scan finds the highest key down below `n`, or none is down. -/
theorem State.scanKeys_spec (s : State) (n : Nat) :
    (∃ k < n, s.scanKeys n = some k ∧ s.keyDown k = true ∧ ∀ j < n, k < j → s.keyDown j = false) ∨
    (s.scanKeys n = none ∧ ∀ k < n, s.keyDown k = false) := by
  induction n with
  | zero => exact .inr ⟨rfl, by simp⟩
  | succ n ih =>
    simp only [State.scanKeys]
    by_cases hn : s.keyDown n = true
    · exact .inl ⟨n, by omega, by simp [hn], hn, fun j _ _ => by omega⟩
    · rw [if_neg hn]
      have hn' : s.keyDown n = false := by simpa using hn
      rcases ih with ⟨k, hk, e, hd, hh⟩ | ⟨e, hh⟩
      · refine .inl ⟨k, by omega, e, hd, fun j hj hkj => ?_⟩
        by_cases hjn : j = n
        · exact hjn ▸ hn'
        · exact hh j (by omega) hkj
      · refine .inr ⟨e, fun k hk => ?_⟩
        by_cases hkn : k = n
        · exact hkn ▸ hn'
        · exact hh k (by omega)

/-- A key skip either skips on the latch it names, or raises KEY_RANGE. -/
theorem State.skipIfKey_cases {s t : State} {x : Reg} {want : Bool} (h : s.skipIfKey x want = .next t) :
    ((s.reg x).toNat ≤ 15 ∧ t = s.skipIf (s.keyDown (s.reg x).toNat == want)) ∨
    (15 < (s.reg x).toNat ∧ t = s.haltWith FaultKind.keyRange.code (zextByte (s.reg x))) := by
  unfold State.skipIfKey at h
  split at h
  · exact .inr ⟨by omega, by simpa [State.raise] using h.symm⟩
  · exact .inl ⟨by omega, by simpa using h.symm⟩

end Sys2Proof.Machine
end

