-- ==== Sys2Proof/Laws/Cycle.lean ====
section
/-! SUPPORT. What a step can do, said once (R120): it is halted, cannot fetch, meets an unknown opcode, or runs the decoded
instruction. -/

namespace Sys2Proof.Machine

theorem step_halted {s : State} (h : s.halted = true) : step s = .next s := by
  simp [step, cycle, h]

theorem step_fetchRange {s : State} (h : s.halted = false) (hp : 0xFFE < s.pc.toNat) :
    step s = .next (s.closeLoad.haltWith FaultKind.fetchRange.code s.pc) := by
  simp [step, cycle, h, State.canFetch, Nat.not_le.2 hp, State.faulted]

theorem step_unknown {s : State} (h : s.halted = false) (hp : s.pc.toNat ≤ 0xFFE) {g : UnknownOpcode}
    (hd : s.fetchDecode = .error g) : step s = .next s.startCycle.tick := by
  simp [step, cycle, h, State.canFetch, hp, hd]

theorem step_exec {s t : State} (h : s.halted = false) (hp : s.pc.toNat ≤ 0xFFE) {i : Instr}
    (hd : s.fetchDecode = .ok i) (he : exec i s.startCycle = .next t) : step s = .next (finish i s t).1 := by
  simp [step, cycle, h, State.canFetch, hp, hd, he]

/-- A run of `n + 1` cycles is a cycle and a run of `n`. -/
theorem core_run_succ {s t : State} (n : Nat) (h : step s = .next t) : core.run (n + 1) s = core.run n t := by
  have h' : core.step s = .next t := h
  simp only [Host.Core.run, h']

/-- An execute phase either leaves the fault registers alone, or raised a fault and did nothing else (R124, R231). -/
theorem exec_keeps_or_raises {i : Instr} {s t : State} (h : exec i s = .next t) :
    (t.halted = s.halted ∧ t.faultCode = s.faultCode ∧ t.faultInfo = s.faultInfo) ∨
    ∃ (k : FaultKind) (w : Word), t = s.haltWith k.code w := by
  cases i
  case ret =>
    simp only [exec, execRet, State.raise] at h
    split at h
    · simp only [Host.Outcome.next.injEq] at h
      exact .inr ⟨_, _, h.symm⟩
    · rename_i hp
      obtain ⟨_, _, rfl⟩ := State.pop_some hp
      simp only [Host.Outcome.next.injEq] at h
      exact .inl (by rw [← h]; exact ⟨rfl, rfl, rfl⟩)
  case call =>
    simp only [exec, execCall, State.raise] at h
    split at h
    · simp only [Host.Outcome.next.injEq] at h
      exact .inr ⟨_, _, h.symm⟩
    · rename_i hp
      obtain ⟨_, rfl⟩ := State.push_some hp
      simp only [Host.Outcome.next.injEq] at h
      exact .inl (by rw [← h]; exact ⟨rfl, rfl, rfl⟩)
  case skp | sknp =>
    rcases State.skipIfKey_cases h with ⟨-, rfl⟩ | ⟨-, rfl⟩
    · exact .inl ⟨rfl, rfl, rfl⟩
    · exact .inr ⟨_, _, rfl⟩
  case ldB | storeRegs =>
    rcases State.storeAtIndex_cases h with ⟨-, rfl⟩ | ⟨-, rfl⟩
    · exact .inl ⟨rfl, rfl, rfl⟩
    · exact .inr ⟨_, _, rfl⟩
  case loadRegs | drw =>
    simp only [exec, execLoadRegs, execDrw, State.raise] at h
    split at h <;> simp only [Host.Outcome.next.injEq] at h
    · exact .inl (by rw [← h]; exact ⟨rfl, rfl, rfl⟩)
    · exact .inr ⟨_, _, h.symm⟩
  case ldKey =>
    simp only [exec, execLdKey] at h
    split at h <;> simp only [Host.Outcome.next.injEq] at h <;> exact .inl (by rw [← h]; exact ⟨rfl, rfl, rfl⟩)
  all_goals
    simp only [exec, Host.Outcome.next.injEq, execCls, execJp, execSeImm, execSneImm, execSeReg, execLdImm, execAddImm,
      execLdReg, execOr, execAnd, execXor, execAddReg, execSub, execShr, execSubn, execShl, execSneReg, execLdI, execJpV0,
      execRnd, execLdFromDT, execLdDT, execLdST, execAddI, execLdF] at h
    exact .inl (by rw [← h]; exact ⟨rfl, rfl, rfl⟩)

/-- Everything a step that answers a next state can have done. -/
theorem step_cases {s t : State} (h : step s = .next t) :
    (s.halted = true ∧ t = s) ∨
    (s.halted = false ∧ 0xFFE < s.pc.toNat ∧ t = s.closeLoad.haltWith FaultKind.fetchRange.code s.pc) ∨
    (s.halted = false ∧ s.pc.toNat ≤ 0xFFE ∧ (∃ g, s.fetchDecode = .error g) ∧ t = s.startCycle.tick) ∨
    (s.halted = false ∧ s.pc.toNat ≤ 0xFFE ∧ ∃ i u, s.fetchDecode = .ok i ∧ exec i s.startCycle = .next u ∧
      t = if u.halted then s.closeLoad.haltWith u.faultCode u.faultInfo else u.tick) := by
  by_cases hh : s.halted = true
  · rw [step_halted hh] at h
    exact .inl ⟨hh, by simpa using h.symm⟩
  · simp only [Bool.not_eq_true] at hh
    by_cases hp : s.pc.toNat ≤ 0xFFE
    · cases hd : s.fetchDecode with
      | error g =>
        rw [step_unknown hh hp hd] at h
        exact .inr (.inr (.inl ⟨hh, hp, ⟨g, rfl⟩, by simpa using h.symm⟩))
      | ok i =>
        cases he : exec i s.startCycle with
        | next u =>
          rw [step_exec hh hp hd he] at h
          refine .inr (.inr (.inr ⟨hh, hp, i, u, rfl, he, ?_⟩))
          simp only [Host.Outcome.next.injEq] at h
          rw [← h]
          unfold finish State.faulted
          split <;> rfl
        | fault r => simp [step, cycle, hh, State.canFetch, hp, hd, he] at h
        | refused r => simp [step, cycle, hh, State.canFetch, hp, hd, he] at h
    · rw [step_fetchRange hh (by omega)] at h
      exact .inr (.inl ⟨hh, by omega, by simpa using h.symm⟩)

end Sys2Proof.Machine
end

