-- ==== Sys2Proof/Laws/Display.lean ====
section
/-! SUPPORT. What drawing does to the framebuffer: each plotted pixel flips its cell, no pixel is plotted twice, and the collision is
a plotted pixel that was on. -/

namespace Sys2Proof.Machine

/-- A flip changes its own cell and no other. -/
theorem Screen.cell_flip (f : Screen) {px py : Nat} (hx : px < 64) (hy : py < 32) (cx cy : Nat) :
    Screen.cell (Screen.flip f px py) cx cy = (Screen.cell f cx cy ^^ decide (cx = px ∧ cy = py)) := by
  by_cases h : cy = py
  · subst h
    simp only [Screen.cell, Screen.flip, Screen.row]
    rw [Vector.getElem?_setIfInBounds]
    simp [hy, eq_comm, hx]
  · simp only [Screen.cell, Screen.flip, Screen.row]
    rw [Vector.getElem?_setIfInBounds]
    simp [h, show ¬ py = cy from fun e => h e.symm]

@[simp] theorem State.fbCell_eq (s : State) {cx cy : Nat} (hx : cx < 64) :
    s.fbCell (cx + 64 * cy) = Screen.cell s.fb cx cy := by
  simp only [State.fbCell]
  rw [show (cx + 64 * cy) % 64 = cx by omega, show (cx + 64 * cy) / 64 = cy by omega]

/-- Plotting distinct pixels flips exactly them, and reports whether one of them was on. -/
theorem Screen.foldl_plot (ps : List (Nat × Nat)) (hn : ps.Nodup) (hb : ∀ p ∈ ps, p.1 < 64 ∧ p.2 < 32)
    (f : Screen) (hit : Bool) :
    (∀ cx cy, Screen.cell (ps.foldl Screen.plot (f, hit)).1 cx cy =
      (Screen.cell f cx cy ^^ decide ((cx, cy) ∈ ps))) ∧
    ((ps.foldl Screen.plot (f, hit)).2 = true ↔ hit = true ∨ ∃ p ∈ ps, Screen.cell f p.1 p.2 = true) := by
  induction ps generalizing f hit with
  | nil => simp
  | cons p ps ih =>
    obtain ⟨px, py⟩ := p
    obtain ⟨hp, hn⟩ := List.nodup_cons.1 hn
    have hpb := hb (px, py) (by simp)
    have ih := ih hn (fun q hq => hb q (by simp [hq])) (Screen.flip f px py) (hit || Screen.cell f px py)
    simp only [List.foldl_cons, Screen.plot]
    refine ⟨fun cx cy => ?_, ?_⟩
    · rw [ih.1, Screen.cell_flip f hpb.1 hpb.2]
      by_cases h : (cx, cy) = (px, py)
      · obtain ⟨rfl, rfl⟩ := Prod.mk.inj h
        simp [hp]
      · have : ¬ (cx = px ∧ cy = py) := fun e => h (Prod.ext e.1 e.2)
        simp [this]
    · rw [ih.2]
      constructor
      · rintro (h | ⟨q, hq, hc⟩)
        · simp at h; rcases h with h | h
          · exact .inl h
          · exact .inr ⟨(px, py), by simp, h⟩
        · rw [Screen.cell_flip f hpb.1 hpb.2] at hc
          have : ¬ (q.1 = px ∧ q.2 = py) := fun e => hp (by rw [show (px, py) = q from Prod.ext e.1.symm e.2.symm]; exact hq)
          exact .inr ⟨q, by simp [hq], by simpa [this] using hc⟩
      · rintro (h | ⟨q, hq, hc⟩)
        · exact .inl (by simp [h])
        · rcases List.mem_cons.1 hq with rfl | hq
          · exact .inl (by simp [hc])
          · refine .inr ⟨q, hq, ?_⟩
            rw [Screen.cell_flip f hpb.1 hpb.2]
            have : ¬ (q.1 = px ∧ q.2 = py) := fun e => hp (by rw [show (px, py) = q from Prod.ext e.1.symm e.2.symm]; exact hq)
            simpa [this] using hc

/-- The pixels of a sprite row, by its 1 bits (R201). -/
theorem mem_rowPixels {x0 py cx cy : Nat} {b : Byte} :
    (cx, cy) ∈ rowPixels x0 py b ↔ ∃ col < 8, b.getLsbD (7 - col) = true ∧ (x0 + col) % 64 = cx ∧ py = cy := by
  simp [rowPixels, and_assoc]

/-- The pixels of a sprite, by the 1 bits of its rows (R201). -/
theorem mem_spritePixels {x0 y0 row cx cy : Nat} {bs : List Byte} :
    (cx, cy) ∈ spritePixels x0 y0 row bs ↔
      ∃ (k : Nat) (h : k < bs.length) (col : Nat), col < 8 ∧ (bs[k]).getLsbD (7 - col) = true ∧
        (x0 + col) % 64 = cx ∧ (y0 + (row + k)) % 32 = cy := by
  induction bs generalizing row with
  | nil => simp [spritePixels]
  | cons b bs ih =>
    simp only [spritePixels, List.mem_append, mem_rowPixels, ih]
    constructor
    · rintro (⟨col, hc, hb, hx, hy⟩ | ⟨k, hk, col, hc, hb, hx, hy⟩)
      · exact ⟨0, by simp, col, hc, by simpa using hb, hx, by simpa using hy⟩
      · exact ⟨k + 1, by simpa using hk, col, hc, by simpa using hb, hx, by rw [← hy]; congr 1; omega⟩
    · rintro ⟨k, hk, col, hc, hb, hx, hy⟩
      cases k with
      | zero => exact .inl ⟨col, hc, by simpa using hb, hx, by simpa using hy⟩
      | succ k => exact .inr ⟨k, by simpa using hk, col, hc, by simpa using hb, hx, by rw [← hy]; congr 1; omega⟩

theorem rowPixels_nodup (x0 py : Nat) (b : Byte) : (rowPixels x0 py b).Nodup := by
  unfold rowPixels
  refine List.Nodup.map_on ?_ (List.Nodup.filter _ List.nodup_range)
  intro a ha c hc e
  simp at ha hc e
  omega

/-- A sprite is smaller than the screen in both directions, so no pixel is plotted twice (R201). -/
theorem spritePixels_nodup (x0 y0 row : Nat) (bs : List Byte) (h : bs.length ≤ 32) :
    (spritePixels x0 y0 row bs).Nodup := by
  induction bs generalizing row with
  | nil => simp [spritePixels]
  | cons b bs ih =>
    simp only [List.length_cons] at h
    refine List.Nodup.append (rowPixels_nodup _ _ _) (ih _ (by omega)) ?_
    rintro ⟨cx, cy⟩ h1 h2
    obtain ⟨_, -, -, -, e1⟩ := mem_rowPixels.1 h1
    obtain ⟨k, hk, _, -, -, -, e2⟩ := mem_spritePixels.1 h2
    omega

theorem spritePixels_bounds {x0 y0 row : Nat} {bs : List Byte} (p : Nat × Nat) (h : p ∈ spritePixels x0 y0 row bs) :
    p.1 < 64 ∧ p.2 < 32 := by
  obtain ⟨cx, cy⟩ := p
  obtain ⟨k, hk, col, hc, hb, hx, hy⟩ := mem_spritePixels.1 h
  omega

/-- What a draw of at most 15 rows does (R201): each cell under a 1 bit flips, the others stay, and the collision is a plotted cell
that was on. -/
theorem Screen.draw_spec (f : Screen) (x0 y0 : Nat) (rows : List Byte) (h : rows.length ≤ 32) :
    (∀ cx cy, Screen.cell (Screen.draw f x0 y0 rows).1 cx cy =
      (Screen.cell f cx cy ^^ decide ((cx, cy) ∈ spritePixels x0 y0 0 rows))) ∧
    ((Screen.draw f x0 y0 rows).2 = true ↔
      ∃ p ∈ spritePixels x0 y0 0 rows, Screen.cell f p.1 p.2 = true) := by
  have := Screen.foldl_plot _ (spritePixels_nodup x0 y0 0 rows h) spritePixels_bounds f false
  simpa [Screen.draw] using this

end Sys2Proof.Machine
end

