-- ==== Sys2Proof/Laws/Encoding.lean ====
section
/-! SUPPORT. The fields of a word and of an encoded word as arithmetic on naturals, so that facts about encodings are linear
arithmetic. -/

namespace Sys2Proof

/-- Concatenation is a shift and a sum (R7). -/
theorem append_toNat {n m : Nat} (a : BitVec n) (b : BitVec m) : (a ++ b).toNat = a.toNat * 2 ^ m + b.toNat := by
  rw [BitVec.toNat_append, ← Nat.shiftLeft_add_eq_or_of_lt b.isLt, Nat.shiftLeft_eq]

/-- A slice is a quotient and a remainder (R7). -/
theorem slice_toNat {n : Nat} (w : BitVec n) (lo len : Nat) :
    (w.extractLsb' lo len).toNat = w.toNat / 2 ^ lo % 2 ^ len := by
  simp [Nat.shiftRight_eq_div_pow]

theorem opHigh_toNat (w : Word) : (opHigh w).toNat = w.toNat / 4096 % 16 := slice_toNat w 12 4

theorem fieldX_val (w : Word) : (fieldX w).val = w.toNat / 256 % 16 := slice_toNat w 8 4

theorem fieldY_val (w : Word) : (fieldY w).val = w.toNat / 16 % 16 := slice_toNat w 4 4

theorem fieldN_toNat (w : Word) : (fieldN w).toNat = w.toNat % 16 := by
  simp [fieldN]

theorem fieldNN_toNat (w : Word) : (fieldNN w).toNat = w.toNat % 256 := by
  simp [fieldNN]

theorem fieldNNN_toNat (w : Word) : (fieldNNN w).toNat = w.toNat % 4096 := by
  simp [fieldNNN]

@[simp] theorem regField_toNat (x : Reg) : (regField x).toNat = x.val := rfl

theorem encodeNNN_toNat (op : BitVec 4) (nnn : Addr) : (op ++ nnn : Word).toNat = op.toNat * 4096 + nnn.toNat :=
  append_toNat op nnn

theorem encodeXNN_toNat (op : BitVec 4) (x : Reg) (nn : Byte) :
    (encodeXNN op x nn).toNat = op.toNat * 4096 + x.val * 256 + nn.toNat := by
  unfold encodeXNN
  rw [append_toNat, append_toNat]
  simp; omega

theorem encodeXYN_toNat (op : BitVec 4) (x y : Reg) (n : Nibble) :
    (encodeXYN op x y n).toNat = op.toNat * 4096 + x.val * 256 + y.val * 16 + n.toNat := by
  unfold encodeXYN
  rw [append_toNat, append_toNat, append_toNat]
  simp; omega

/-- The fields of a word of format NNN. -/
theorem fields_encodeNNN (op : BitVec 4) (nnn : Addr) :
    opHigh (op ++ nnn : Word) = op ∧ fieldNNN (op ++ nnn : Word) = nnn := by
  have h := encodeNNN_toNat op nnn
  refine ⟨BitVec.eq_of_toNat_eq ?_, BitVec.eq_of_toNat_eq ?_⟩
  · rw [opHigh_toNat]; omega
  · rw [fieldNNN_toNat]; omega

/-- The fields of a word of format XNN, XSS included. -/
theorem fields_encodeXNN (op : BitVec 4) (x : Reg) (nn : Byte) :
    opHigh (encodeXNN op x nn) = op ∧ fieldX (encodeXNN op x nn) = x ∧ fieldNN (encodeXNN op x nn) = nn := by
  have h := encodeXNN_toNat op x nn
  refine ⟨BitVec.eq_of_toNat_eq ?_, Fin.ext ?_, BitVec.eq_of_toNat_eq ?_⟩
  · rw [opHigh_toNat]; omega
  · rw [fieldX_val]; omega
  · rw [fieldNN_toNat]; omega

/-- The fields of a word of format XYN, XYS included. -/
theorem fields_encodeXYN (op : BitVec 4) (x y : Reg) (n : Nibble) :
    opHigh (encodeXYN op x y n) = op ∧ fieldX (encodeXYN op x y n) = x ∧ fieldY (encodeXYN op x y n) = y ∧
      fieldN (encodeXYN op x y n) = n := by
  have h := encodeXYN_toNat op x y n
  refine ⟨BitVec.eq_of_toNat_eq ?_, Fin.ext ?_, Fin.ext ?_, BitVec.eq_of_toNat_eq ?_⟩
  · rw [opHigh_toNat]; omega
  · rw [fieldX_val]; omega
  · rw [fieldY_val]; omega
  · rw [fieldN_toNat]; omega

theorem wordOfBytes_toNat (a b : Byte) : (wordOfBytes a b).toNat = 256 * a.toNat + b.toNat := by
  unfold wordOfBytes; rw [append_toNat]; omega

/-- A word is the pair of its bytes (R60). -/
@[simp] theorem wordOfBytes_bytes (w : Word) : wordOfBytes (firstByte w) (secondByte w) = w := by
  apply BitVec.eq_of_toNat_eq
  rw [wordOfBytes_toNat, firstByte, secondByte, slice_toNat, slice_toNat]
  omega

end Sys2Proof
end

