-- ==== Sys2Proof/Laws/PerInstr.lean ====
section
/-! SUPPORT. The family EncodingMatchesRow: the word of every instruction matches the row of the opcode map that bears its code
(spec/30_encoding.md R94, R96). -/

namespace Sys2Proof.Laws.EncodingMatchesRow

/-- Some row of the map has the instruction's code and matches its word. -/
def Statement (i : Instr) : Prop := ∃ r ∈ opcodeMap, r.code = i.code ∧ r.Matches (encode i)

/-! The four masks of R94 on the formats of R91. -/

theorem maskNNN (op : BitVec 4) (nnn : Addr) : (op ++ nnn : Word) &&& 0xF000#16 = op ++ 0#12 := by
  rw [show 0xF000#16 = (BitVec.allOnes 4 ++ 0#12 : Word) from rfl, BitVec.and_append]
  simp only [BitVec.and_allOnes, BitVec.and_zero]

theorem maskXNN (op : BitVec 4) (x : Reg) (nn : Byte) : encodeXNN op x nn &&& 0xF000#16 = op ++ 0#12 := maskNNN op _

theorem maskXYN (op : BitVec 4) (x y : Reg) (n : Nibble) : encodeXYN op x y n &&& 0xF000#16 = op ++ 0#12 := maskNNN op _

theorem maskXSS (op : BitVec 4) (x : Reg) (nn : Byte) :
    encodeXNN op x nn &&& 0xF0FF#16 = op ++ (0#4 ++ nn) := by
  rw [encodeXNN, show 0xF0FF#16 = (BitVec.allOnes 4 ++ (0#4 ++ BitVec.allOnes 8) : Word) from rfl,
    BitVec.and_append, BitVec.and_append]
  simp only [BitVec.and_allOnes, BitVec.and_zero]

theorem maskXYS (op : BitVec 4) (x y : Reg) (n : Nibble) :
    encodeXYN op x y n &&& 0xF00F#16 = op ++ (0#4 ++ (0#4 ++ n)) := by
  rw [encodeXYN, show 0xF00F#16 = (BitVec.allOnes 4 ++ (0#4 ++ (0#4 ++ BitVec.allOnes 4)) : Word) from rfl,
    BitVec.and_append, BitVec.and_append, BitVec.and_append]
  simp only [BitVec.and_allOnes, BitVec.and_zero]

/-! One lemma per instruction. -/

theorem cls : Statement .cls :=
  ⟨⟨"00E0", 0x00E0#16, 0xFFFF#16⟩, by decide, rfl, rfl⟩

theorem ret : Statement .ret :=
  ⟨⟨"00EE", 0x00EE#16, 0xFFFF#16⟩, by decide, rfl, rfl⟩

theorem jp (nnn : Addr) : Statement (.jp nnn) :=
  ⟨⟨"1NNN", 0x1000#16, 0xF000#16⟩, by decide, rfl, maskNNN ..⟩

theorem call (nnn : Addr) : Statement (.call nnn) :=
  ⟨⟨"2NNN", 0x2000#16, 0xF000#16⟩, by decide, rfl, maskNNN ..⟩

theorem seImm (x : Reg) (nn : Byte) : Statement (.seImm x nn) :=
  ⟨⟨"3XNN", 0x3000#16, 0xF000#16⟩, by decide, rfl, maskXNN ..⟩

theorem sneImm (x : Reg) (nn : Byte) : Statement (.sneImm x nn) :=
  ⟨⟨"4XNN", 0x4000#16, 0xF000#16⟩, by decide, rfl, maskXNN ..⟩

theorem seReg (x : Reg) (y : Reg) : Statement (.seReg x y) :=
  ⟨⟨"5XY0", 0x5000#16, 0xF00F#16⟩, by decide, rfl, maskXYS ..⟩

theorem ldImm (x : Reg) (nn : Byte) : Statement (.ldImm x nn) :=
  ⟨⟨"6XNN", 0x6000#16, 0xF000#16⟩, by decide, rfl, maskXNN ..⟩

theorem addImm (x : Reg) (nn : Byte) : Statement (.addImm x nn) :=
  ⟨⟨"7XNN", 0x7000#16, 0xF000#16⟩, by decide, rfl, maskXNN ..⟩

theorem ldReg (x : Reg) (y : Reg) : Statement (.ldReg x y) :=
  ⟨⟨"8XY0", 0x8000#16, 0xF00F#16⟩, by decide, rfl, maskXYS ..⟩

theorem orReg (x : Reg) (y : Reg) : Statement (.orReg x y) :=
  ⟨⟨"8XY1", 0x8001#16, 0xF00F#16⟩, by decide, rfl, maskXYS ..⟩

theorem andReg (x : Reg) (y : Reg) : Statement (.andReg x y) :=
  ⟨⟨"8XY2", 0x8002#16, 0xF00F#16⟩, by decide, rfl, maskXYS ..⟩

theorem xorReg (x : Reg) (y : Reg) : Statement (.xorReg x y) :=
  ⟨⟨"8XY3", 0x8003#16, 0xF00F#16⟩, by decide, rfl, maskXYS ..⟩

theorem addReg (x : Reg) (y : Reg) : Statement (.addReg x y) :=
  ⟨⟨"8XY4", 0x8004#16, 0xF00F#16⟩, by decide, rfl, maskXYS ..⟩

theorem sub (x : Reg) (y : Reg) : Statement (.sub x y) :=
  ⟨⟨"8XY5", 0x8005#16, 0xF00F#16⟩, by decide, rfl, maskXYS ..⟩

theorem shr (x : Reg) (y : Reg) : Statement (.shr x y) :=
  ⟨⟨"8XY6", 0x8006#16, 0xF00F#16⟩, by decide, rfl, maskXYS ..⟩

theorem subn (x : Reg) (y : Reg) : Statement (.subn x y) :=
  ⟨⟨"8XY7", 0x8007#16, 0xF00F#16⟩, by decide, rfl, maskXYS ..⟩

theorem shl (x : Reg) (y : Reg) : Statement (.shl x y) :=
  ⟨⟨"8XYE", 0x800E#16, 0xF00F#16⟩, by decide, rfl, maskXYS ..⟩

theorem sneReg (x : Reg) (y : Reg) : Statement (.sneReg x y) :=
  ⟨⟨"9XY0", 0x9000#16, 0xF00F#16⟩, by decide, rfl, maskXYS ..⟩

theorem ldI (nnn : Addr) : Statement (.ldI nnn) :=
  ⟨⟨"ANNN", 0xA000#16, 0xF000#16⟩, by decide, rfl, maskNNN ..⟩

theorem jpV0 (nnn : Addr) : Statement (.jpV0 nnn) :=
  ⟨⟨"BNNN", 0xB000#16, 0xF000#16⟩, by decide, rfl, maskNNN ..⟩

theorem rnd (x : Reg) (nn : Byte) : Statement (.rnd x nn) :=
  ⟨⟨"CXNN", 0xC000#16, 0xF000#16⟩, by decide, rfl, maskXNN ..⟩

theorem drw (x : Reg) (y : Reg) (n : Nibble) : Statement (.drw x y n) :=
  ⟨⟨"DXYN", 0xD000#16, 0xF000#16⟩, by decide, rfl, maskXYN ..⟩

theorem skp (x : Reg) : Statement (.skp x) :=
  ⟨⟨"EX9E", 0xE09E#16, 0xF0FF#16⟩, by decide, rfl, maskXSS ..⟩

theorem sknp (x : Reg) : Statement (.sknp x) :=
  ⟨⟨"EXA1", 0xE0A1#16, 0xF0FF#16⟩, by decide, rfl, maskXSS ..⟩

theorem ldFromDT (x : Reg) : Statement (.ldFromDT x) :=
  ⟨⟨"FX07", 0xF007#16, 0xF0FF#16⟩, by decide, rfl, maskXSS ..⟩

theorem ldKey (x : Reg) : Statement (.ldKey x) :=
  ⟨⟨"FX0A", 0xF00A#16, 0xF0FF#16⟩, by decide, rfl, maskXSS ..⟩

theorem ldDT (x : Reg) : Statement (.ldDT x) :=
  ⟨⟨"FX15", 0xF015#16, 0xF0FF#16⟩, by decide, rfl, maskXSS ..⟩

theorem ldST (x : Reg) : Statement (.ldST x) :=
  ⟨⟨"FX18", 0xF018#16, 0xF0FF#16⟩, by decide, rfl, maskXSS ..⟩

theorem addI (x : Reg) : Statement (.addI x) :=
  ⟨⟨"FX1E", 0xF01E#16, 0xF0FF#16⟩, by decide, rfl, maskXSS ..⟩

theorem ldF (x : Reg) : Statement (.ldF x) :=
  ⟨⟨"FX29", 0xF029#16, 0xF0FF#16⟩, by decide, rfl, maskXSS ..⟩

theorem ldB (x : Reg) : Statement (.ldB x) :=
  ⟨⟨"FX33", 0xF033#16, 0xF0FF#16⟩, by decide, rfl, maskXSS ..⟩

theorem storeRegs (x : Reg) : Statement (.storeRegs x) :=
  ⟨⟨"FX55", 0xF055#16, 0xF0FF#16⟩, by decide, rfl, maskXSS ..⟩

theorem loadRegs (x : Reg) : Statement (.loadRegs x) :=
  ⟨⟨"FX65", 0xF065#16, 0xF0FF#16⟩, by decide, rfl, maskXSS ..⟩

end Sys2Proof.Laws.EncodingMatchesRow
end

