-- ==== Sys2Proof/Tests/Slice0.lean ====
section
/-! SUPPORT. Tests of the decoder, of each instruction on one cycle, and a witness for the hypotheses of each statement. The expected
values are the worked examples and vectors of spec/95_test_vectors.md, by their ids, or the encodings of spec/30_encoding.md R91
and R96 written out. -/

namespace Sys2Proof.Tests

open Sys2Proof Sys2Proof.Machine Sys2Proof.Frame Sys2Proof.Safety

/-! ### Helpers -/

/-- The state with these registers set. -/
def withRegs (s : State) (l : List (Reg × Byte)) : State := l.foldl (fun t p => t.setReg p.1 p.2) s

/-- The state with these bytes stored. -/
def withBytes (s : State) (a : Nat) (l : List Byte) : State := s.setMem (s.mem.writeBytes a l)

/-- The state after one cycle that runs the word `w`. -/
def ran (s : State) (w : Nat) : State :=
  match step (s.withFetchWord 16 w) with
  | .next t => t
  | .fault _ => s
  | .refused _ => s

/-- The status of that cycle. -/
def statusOf (s : State) (w : Nat) : Option Status :=
  match cycle (s.withFetchWord 16 w) with
  | .next p => some p.2
  | .fault _ => none
  | .refused _ => none

/-- The state after the execute phase alone. -/
def executed (i : Instr) (s : State) : State :=
  match exec i s with
  | .next t => t
  | .fault _ => s
  | .refused _ => s

/-- The registers the vectors of 2.1 and 2.2 start from: V0, V1, VF. -/
def r3 (v0 v1 vf : Byte) : State := withRegs State.reset [(0, v0), (1, v1), (15, vf)]

/-- V0, V1, VF and pc after a cycle. -/
def o3 (s : State) (w : Nat) : Byte × Byte × Byte × Word :=
  ((ran s w).reg 0, (ran s w).reg 1, (ran s w).reg 15, (ran s w).pc)

/-- The fault recorded by a cycle, with its pc. -/
def faultOf (s : State) (w : Nat) : Bool × BitVec 3 × Word × Word :=
  ((ran s w).halted, (ran s w).faultCode, (ran s w).faultInfo, (ran s w).pc)

/-- The state at `pc`. -/
def atPc (pc : Word) : State := { State.reset with pc := pc }

/-- The state with `I`. -/
def atI (i : Word) : State := { State.reset with I := i }

/-- The state with a sprite at 0x300. -/
def sprite (l : List Byte) (v0 v1 : Byte) : State :=
  withBytes (withRegs (atI 0x300#16) [(0, v0), (1, v1)]) 0x300 l

/-- The state with keys down. -/
def keys (k : BitVec 16) (s : State) : State := { s with key := k }

/-! ### Decoding: every row of R96, its word written out bit by bit with fields of distinct bits -/

theorem test_decode_control_flow :
    decode 0b0000000011101110#16 = .ok .ret ∧
    decode 0b0001101010111100#16 = .ok (.jp 0xABC#12) ∧
    decode 0b0010101010111100#16 = .ok (.call 0xABC#12) ∧
    decode 0b0011101001010001#16 = .ok (.seImm 0xA 0x51#8) ∧
    decode 0b0100101001010001#16 = .ok (.sneImm 0xA 0x51#8) ∧
    decode 0b0101000100100000#16 = .ok (.seReg 1 2) ∧
    decode 0b1001000100100000#16 = .ok (.sneReg 1 2) ∧
    decode 0b1011101010111100#16 = .ok (.jpV0 0xABC#12) := by decide

theorem test_decode_constants :
    decode 0b0110000100000011#16 = .ok (.ldImm 1 0x03#8) ∧
    decode 0b0111101011111111#16 = .ok (.addImm 0xA 0xFF#8) ∧
    decode 0b1100000100001111#16 = .ok (.rnd 1 0x0F#8) := by decide

theorem test_decode_alu :
    decode 0b1000000100100000#16 = .ok (.ldReg 1 2) ∧
    decode 0b1000000100100001#16 = .ok (.orReg 1 2) ∧
    decode 0b1000000100100010#16 = .ok (.andReg 1 2) ∧
    decode 0b1000000100100011#16 = .ok (.xorReg 1 2) ∧
    decode 0b1000000100100100#16 = .ok (.addReg 1 2) ∧
    decode 0b1000000100100101#16 = .ok (.sub 1 2) ∧
    decode 0b1000000100100110#16 = .ok (.shr 1 2) ∧
    decode 0b1000000100100111#16 = .ok (.subn 1 2) ∧
    decode 0b1000101010111110#16 = .ok (.shl 0xA 0xB) := by decide

theorem test_decode_display :
    decode 0b0000000011100000#16 = .ok .cls ∧
    decode 0b1101000100100011#16 = .ok (.drw 1 2 3#4) := by decide

theorem test_decode_index_memory :
    decode 0b1010101010111100#16 = .ok (.ldI 0xABC#12) ∧
    decode 0b1111001000011110#16 = .ok (.addI 2) ∧
    decode 0b1111000100101001#16 = .ok (.ldF 1) ∧
    decode 0b1111001100110011#16 = .ok (.ldB 3) ∧
    decode 0b1111111101010101#16 = .ok (.storeRegs 0xF) ∧
    decode 0b1111111001100101#16 = .ok (.loadRegs 0xE) := by decide

theorem test_decode_keys_timers :
    decode 0b1110010110011110#16 = .ok (.skp 5) ∧
    decode 0b1110010110100001#16 = .ok (.sknp 5) ∧
    decode 0b1111001100000111#16 = .ok (.ldFromDT 3) ∧
    decode 0b1111010000001010#16 = .ok (.ldKey 4) ∧
    decode 0b1111001100010101#16 = .ok (.ldDT 3) ∧
    decode 0b1111001100011000#16 = .ok (.ldST 3) := by decide

/-- Y1 to Y6, B19, B20, K20 to K22: one unknown opcode of each group of R97 at least, in its group. -/
theorem test_decode_unknown :
    decode 0x0000#16 = .error .group0 ∧ decode 0x00E1#16 = .error .group0 ∧ decode 0x0230#16 = .error .group0 ∧
    decode 0x5AB1#16 = .error .group5 ∧ decode 0x8018#16 = .error .group8 ∧ decode 0x801F#16 = .error .group8 ∧
    decode 0x9AB1#16 = .error .group9 ∧ decode 0xE09F#16 = .error .groupE ∧ decode 0xF000#16 = .error .groupF ∧
    decode 0xF075#16 = .error .groupF ∧ decode 0xFFFF#16 = .error .groupF := by decide

/-- The source's examples of R102. -/
theorem test_encode :
    encode (.ldImm 0 0x05#8) = 0x6005#16 ∧ encode (.ldImm 1 0x03#8) = 0x6103#16 ∧ encode (.addReg 0 1) = 0x8014#16 ∧
    encode (.addImm 2 255#8) = 0x72FF#16 ∧ encode (.drw 1 2 3#4) = 0xD123#16 := by decide

theorem test_decodeTableWord :
    decodeTableWord 16 0x6005 = some (.ldImm 0 0x05#8) ∧ decodeTableWord 16 0x00E0 = some .cls ∧
    decodeTableWord 16 0x5121 = none := by decide

/-! ### Well-formedness: an ill-formed term for each check -/

/-- One word of each group of R97 that no row of the map matches. -/
theorem test_wellFormed_refuses_unknown_words :
    ¬ Word.WellFormed 0x0230#16 ∧ ¬ Word.WellFormed 0x5AB1#16 ∧ ¬ Word.WellFormed 0x8018#16 ∧
    ¬ Word.WellFormed 0x9AB1#16 ∧ ¬ Word.WellFormed 0xE09F#16 ∧ ¬ Word.WellFormed 0xF000#16 := by decide

theorem test_wellFormed_accepts :
    Word.WellFormed 0x00E0#16 ∧ Word.WellFormed 0x8ABE#16 ∧ Word.WellFormed 0xFE65#16 := by decide

theorem test_opcodeMap_has_34_rows : opcodeMap.length = 34 := by decide

/-- S7: an image of 3585 bytes does not fit, one of 3584 does. -/
theorem test_image_size :
    ¬ imageWellFormed (List.replicate 3585 0#8) ∧ imageWellFormed (List.replicate 3584 0#8) := by
  simp only [imageWellFormed, List.length_replicate]; decide

/-! ### Control flow (2.3) -/

/-- B7, B9. -/
theorem test_ret :
    ((ran { atPc 0x400#16 with sp := 1, stack := State.reset.stack.set 0 0x0300#16 } 0x00EE).pc = 0x0302#16) ∧
    ((ran { atPc 0x400#16 with sp := 16, stack := State.reset.stack.set 15 0x0FFE#16 } 0x00EE).pc = 0x1000#16) ∧
    ((ran { atPc 0x400#16 with sp := 16, stack := State.reset.stack.set 15 0x0FFE#16 } 0x00EE).sp = 15) := by decide

/-- B8. -/
theorem test_ret_underflow : faultOf (atPc 0x400#16) 0x00EE = (true, 4#3, 0x0400#16, 0x400#16) := by decide

/-- B1, B2. -/
theorem test_jp : (ran State.reset 0x1ABC).pc = 0x0ABC#16 ∧ (ran (atPc 0x300#16) 0x1201).pc = 0x0201#16 := by decide

/-- B4, B5. -/
theorem test_call :
    (ran (atPc 0x300#16) 0x2ABC).stack[0] = 0x0300#16 ∧ (ran (atPc 0x300#16) 0x2ABC).sp = 1 ∧
    (ran (atPc 0x300#16) 0x2ABC).pc = 0x0ABC#16 ∧
    (ran { atPc 0x300#16 with sp := 15 } 0x2400).stack[15] = 0x0300#16 ∧
    (ran { atPc 0x300#16 with sp := 15 } 0x2400).sp = 16 := by decide

/-- B6. -/
theorem test_call_overflow :
    faultOf { atPc 0x300#16 with sp := 16 } 0x2400 = (true, 3#3, 0x0300#16, 0x300#16) := by decide

/-- B10, B11, B24. -/
theorem test_seImm :
    (ran State.reset 0x3A00).pc = 0x204#16 ∧ (ran State.reset 0x3A01).pc = 0x202#16 ∧
    (ran (withRegs (atPc 0xFFE#16) [(15, 0xFF#8)]) 0x3FFF).pc = 0x1002#16 := by decide

/-- B12, B13. -/
theorem test_sneImm : (ran State.reset 0x4A00).pc = 0x202#16 ∧ (ran State.reset 0x4A01).pc = 0x204#16 := by decide

/-- B14, B15, B16. -/
theorem test_seReg :
    (ran State.reset 0x5AB0).pc = 0x204#16 ∧ (ran (withRegs State.reset [(10, 1#8)]) 0x5AB0).pc = 0x202#16 ∧
    (ran (withRegs State.reset [(10, 9#8)]) 0x5AA0).pc = 0x204#16 := by decide

/-- B17, B18. -/
theorem test_sneReg :
    (ran State.reset 0x9AB0).pc = 0x202#16 ∧ (ran (withRegs State.reset [(11, 1#8)]) 0x9AB0).pc = 0x204#16 := by decide

/-- B21, B22, B23. -/
theorem test_jpV0 :
    (ran (r3 4#8 0#8 0#8) 0xB300).pc = 0x0304#16 ∧ (ran (r3 0xFF#8 0#8 0#8) 0xBFFF).pc = 0x10FE#16 ∧
    (ran (withRegs State.reset [(0, 1#8), (2, 0x40#8)]) 0xB200).pc = 0x0201#16 := by decide

/-! ### Register load, arithmetic and logic (2.1, 2.2) -/

/-- A24 and the source's own program. -/
theorem test_ldImm :
    o3 State.reset 0x6005 = (5#8, 0#8, 0#8, 0x202#16) ∧ o3 State.reset 0x6FAB = (0#8, 0#8, 0xAB#8, 0x202#16) := by decide

/-- A21, A22, A23. -/
theorem test_addImm :
    o3 (r3 5#8 0#8 0x77#8) 0x70FF = (4#8, 0#8, 0x77#8, 0x202#16) ∧
    o3 (r3 0xFF#8 0#8 0x77#8) 0x7001 = (0#8, 0#8, 0x77#8, 0x202#16) ∧
    o3 (r3 0#8 0#8 0xFF#8) 0x7F01 = (0#8, 0#8, 0#8, 0x202#16) := by decide

/-- A16 to A19. -/
theorem test_assign_and_logic :
    o3 (r3 0x12#8 0x34#8 0x77#8) 0x8010 = (0x34#8, 0x34#8, 0x77#8, 0x202#16) ∧
    o3 (r3 0xF0#8 0x0F#8 0x77#8) 0x8011 = (0xFF#8, 0x0F#8, 0x77#8, 0x202#16) ∧
    o3 (r3 0xF0#8 0x3C#8 0x77#8) 0x8012 = (0x30#8, 0x3C#8, 0x77#8, 0x202#16) ∧
    o3 (r3 0xF0#8 0x3C#8 0x77#8) 0x8013 = (0xCC#8, 0x3C#8, 0x77#8, 0x202#16) := by decide

/-- A1 to A4 and the source's own program. -/
theorem test_addReg :
    o3 (r3 0xFF#8 0x01#8 0#8) 0x8014 = (0#8, 1#8, 1#8, 0x202#16) ∧
    o3 (r3 0xFE#8 0x01#8 0#8) 0x8014 = (0xFF#8, 1#8, 0#8, 0x202#16) ∧
    o3 (r3 0x80#8 0x80#8 0#8) 0x8014 = (0#8, 0x80#8, 1#8, 0x202#16) ∧
    o3 (r3 0x81#8 0#8 0#8) 0x8004 = (2#8, 0#8, 1#8, 0x202#16) ∧
    o3 (r3 5#8 3#8 0#8) 0x8014 = (8#8, 3#8, 0#8, 0x202#16) := by decide

/-- F1, F2, F3, F4, F4b, F5, F6. -/
theorem test_addReg_flag_operand :
    o3 (r3 0#8 2#8 0xFF#8) 0x8F14 = (0#8, 2#8, 3#8, 0x202#16) ∧ o3 (r3 0#8 2#8 0x10#8) 0x8F14 = (0#8, 2#8, 2#8, 0x202#16) ∧
    o3 (r3 0xFF#8 0#8 1#8) 0x80F4 = (0#8, 0#8, 1#8, 0x202#16) ∧
    o3 (r3 0x10#8 0#8 0xF0#8) 0x80F4 = (0x11#8, 0#8, 1#8, 0x202#16) ∧
    o3 (r3 0x10#8 0#8 0x20#8) 0x80F4 = (0x10#8, 0#8, 0#8, 0x202#16) ∧
    o3 (r3 0#8 0#8 0x80#8) 0x8FF4 = (0#8, 0#8, 2#8, 0x202#16) ∧
    o3 (r3 0#8 0#8 0x7F#8) 0x8FF4 = (0#8, 0#8, 0#8, 0x202#16) := by decide

/-- A5 to A8. -/
theorem test_sub :
    o3 (r3 1#8 2#8 0#8) 0x8015 = (0xFF#8, 2#8, 0#8, 0x202#16) ∧ o3 (r3 5#8 5#8 0#8) 0x8015 = (0#8, 5#8, 1#8, 0x202#16) ∧
    o3 (r3 0#8 0xFF#8 0#8) 0x8015 = (1#8, 0xFF#8, 0#8, 0x202#16) ∧
    o3 (r3 0xFF#8 0#8 0#8) 0x8015 = (0xFF#8, 0#8, 1#8, 0x202#16) := by decide

/-- F7 to F11. -/
theorem test_sub_flag_operand :
    o3 (r3 0#8 3#8 5#8) 0x8F15 = (0#8, 3#8, 0xFE#8, 0x202#16) ∧ o3 (r3 0#8 3#8 2#8) 0x8F15 = (0#8, 3#8, 0xFD#8, 0x202#16) ∧
    o3 (r3 0x10#8 0#8 3#8) 0x80F5 = (0x0F#8, 0#8, 1#8, 0x202#16) ∧
    o3 (r3 2#8 0#8 3#8) 0x80F5 = (2#8, 0#8, 0#8, 0x202#16) ∧ o3 (r3 1#8 0#8 2#8) 0x80F5 = (1#8, 0#8, 0#8, 0x202#16) ∧
    o3 (r3 0#8 0#8 0x42#8) 0x8FF5 = (0#8, 0#8, 0#8, 0x202#16) := by decide

/-- A9 to A11. -/
theorem test_subn :
    o3 (r3 2#8 1#8 0#8) 0x8017 = (0xFF#8, 1#8, 0#8, 0x202#16) ∧ o3 (r3 1#8 2#8 0#8) 0x8017 = (1#8, 2#8, 1#8, 0x202#16) ∧
    o3 (r3 7#8 7#8 0#8) 0x8017 = (0#8, 7#8, 1#8, 0x202#16) := by decide

/-- F12 to F16. -/
theorem test_subn_flag_operand :
    o3 (r3 0#8 9#8 5#8) 0x8F17 = (0#8, 9#8, 8#8, 0x202#16) ∧ o3 (r3 0#8 5#8 9#8) 0x8F17 = (0#8, 5#8, 5#8, 0x202#16) ∧
    o3 (r3 0x10#8 0#8 0x20#8) 0x80F7 = (0xF1#8, 0#8, 1#8, 0x202#16) ∧
    o3 (r3 0x10#8 0#8 3#8) 0x80F7 = (0xF0#8, 0#8, 0#8, 0x202#16) ∧
    o3 (r3 0#8 0#8 0x42#8) 0x8FF7 = (0#8, 0#8, 0#8, 0x202#16) := by decide

/-- A12, A13, F17. -/
theorem test_shr :
    o3 (r3 3#8 0xAA#8 0#8) 0x8016 = (1#8, 0xAA#8, 1#8, 0x202#16) ∧
    o3 (r3 0x80#8 0#8 0#8) 0x8016 = (0x40#8, 0#8, 0#8, 0x202#16) ∧
    o3 (r3 0#8 0#8 0xFF#8) 0x8F06 = (0#8, 0#8, 0#8, 0x202#16) := by decide

/-- A14, A15, F18, F19. -/
theorem test_shl :
    o3 (r3 0x81#8 0x55#8 0#8) 0x801E = (2#8, 0x55#8, 1#8, 0x202#16) ∧
    o3 (r3 0x7F#8 0#8 0#8) 0x801E = (0xFE#8, 0#8, 0#8, 0x202#16) ∧
    o3 (r3 0#8 0#8 0xFF#8) 0x8F0E = (0#8, 0#8, 2#8, 0x202#16) ∧
    o3 (r3 0#8 0#8 0x7F#8) 0x8F0E = (0#8, 0#8, 0#8, 0x202#16) := by decide

/-- A25, A26, A27 on the meaning with its draw given. -/
theorem test_rnd_with_the_draw_given :
    (State.reset.loadMasked 0xB7#8 1 0x0F#8).reg 1 = 0x07#8 ∧ (State.reset.loadMasked 0xB7#8 1 0xFF#8).reg 1 = 0xB7#8 ∧
    ((r3 0#8 0x55#8 0#8).loadMasked 0xB7#8 1 0x00#8).reg 1 = 0#8 := by decide

/-- The step of RND moves on and counts its draw, whatever the draw is. -/
theorem test_rnd_step : (ran State.reset 0xC10F).pc = 0x202#16 ∧ (ran State.reset 0xC10F).draws = 1 := by decide

/-! ### Index register and memory (2.4) -/

/-- M1. -/
theorem test_ldI : (ran State.reset 0xAFFF).I = 0x0FFF#16 ∧ (ran State.reset 0xAFFF).pc = 0x202#16 := by decide

/-- `I` and VF after FX1E with X = 2. -/
def addI2 (i : Word) (v : Byte) : Word × Byte :=
  ((ran (withRegs (atI i) [(2, v), (15, 9#8)]) 0xF21E).I, (ran (withRegs (atI i) [(2, v), (15, 9#8)]) 0xF21E).reg 15)

/-- M2 to M5b. -/
theorem test_addI :
    addI2 0x0FFF#16 0#8 = (0x0FFF#16, 0#8) ∧ addI2 0x0FFF#16 1#8 = (0x1000#16, 1#8) ∧ addI2 0xFFFF#16 2#8 = (0x0001#16, 1#8) ∧
    addI2 0x0F00#16 0xFF#8 = (0x0FFF#16, 0#8) ∧ addI2 0x0F01#16 0xFF#8 = (0x1000#16, 1#8) := by decide

/-- F20, F21. -/
theorem test_addI_flag_operand :
    (ran (withRegs (atI 0x0FFF#16) [(15, 5#8)]) 0xFF1E).I = 0x1000#16 ∧
    (ran (withRegs (atI 0x0FFF#16) [(15, 5#8)]) 0xFF1E).reg 15 = 1#8 ∧
    (ran (withRegs (atI 0x0100#16) [(15, 5#8)]) 0xFF1E).I = 0x0100#16 ∧
    (ran (withRegs (atI 0x0100#16) [(15, 5#8)]) 0xFF1E).reg 15 = 0#8 := by decide

/-- M6, M7, M8. -/
theorem test_ldF :
    (ran (r3 0#8 0x0F#8 0#8) 0xF129).I = 0x004B#16 ∧ (ran (r3 0#8 0xFF#8 0#8) 0xF129).I = 0x04FB#16 ∧
    (ran (r3 0#8 0x10#8 0#8) 0xF129).I = 0x0050#16 := by decide

/-- The three bytes at `I` after FX33 with X = 3. -/
def digits (i : Word) (v : Byte) : List Byte := (ran (withRegs (atI i) [(3, v)]) 0xF333).mem.readBytes i.toNat 3

/-- M9, M11, M12, M13. -/
theorem test_ldB :
    digits 0x0FFD#16 255#8 = [2#8, 5#8, 5#8] ∧ digits 0x300#16 7#8 = [0#8, 0#8, 7#8] ∧
    digits 0x300#16 100#8 = [1#8, 0#8, 0#8] ∧ digits 0x300#16 156#8 = [1#8, 5#8, 6#8] := by decide

/-- M10. -/
theorem test_ldB_range :
    faultOf (withRegs (atI 0x0FFE#16) [(3, 255#8)]) 0xF333 = (true, 2#3, 0x0FFE#16, 0x200#16) ∧
    digits 0x0FFE#16 255#8 = [0#8, 0#8, 0#8] := by decide

/-- M14, M16, M21. -/
theorem test_storeRegs :
    (ran (withRegs (atI 0x0FF0#16) [(0, 0x11#8), (14, 0xEE#8), (15, 0xFF#8)]) 0xFF55).mem.readBytes 0xFF0 16 =
      [0x11#8] ++ List.replicate 13 0#8 ++ [0xEE#8, 0xFF#8] ∧
    (ran (withRegs (atI 0x0FFF#16) [(0, 0xAB#8)]) 0xF055).mem.read 0xFFF = 0xAB#8 ∧
    (ran (withRegs (atI 0x0000#16) [(0, 0xAA#8)]) 0xF055).mem.read 0 = 0xAA#8 :=
  ⟨by decide, by decide, Memory.read_write _ 0 0xAA#8 0⟩

/-- M15, M17. -/
theorem test_storeRegs_range :
    faultOf (atI 0x0FF1#16) 0xFF55 = (true, 2#3, 0x0FF1#16, 0x200#16) ∧
    (ran (withRegs (atI 0x0FFF#16) [(0, 0xAB#8)]) 0xF155).mem.read 0xFFF = 0#8 := by decide

/-- The table of R27: the first and the last glyph, and glyph A at 0x032. -/
theorem test_conventionalFont :
    conventionalFont.toList.take 5 = [0xF0#8, 0x90#8, 0x90#8, 0x90#8, 0xF0#8] ∧
    (conventionalFont.toList.drop 0x32).take 5 = [0xF0#8, 0x90#8, 0xF0#8, 0x90#8, 0x90#8] ∧
    conventionalFont.toList.drop 0x4B = [0xF0#8, 0x80#8, 0xF0#8, 0x80#8, 0x80#8] := by decide

/-- M22, M18: with any FONT, and with the conventional one as a premise. -/
theorem test_loadRegs :
    ((ran (withRegs (withBytes (atI 0x300#16) 0x300 [1#8, 2#8, 3#8, 4#8, 5#8]) [(4, 0x99#8)]) 0xF365).V.toList.take 5) =
      [1#8, 2#8, 3#8, 4#8, 0x99#8] ∧
    (ran State.reset 0xF265).V.toList.take 3 = [Config.font[0], Config.font[1], Config.font[2]] ∧
    (Config.font = conventionalFont → (ran State.reset 0xF265).V.toList.take 3 = [0xF0#8, 0x90#8, 0x90#8]) := by
  have any_font : (ran State.reset 0xF265).V.toList.take 3 = [Config.font[0], Config.font[1], Config.font[2]] := rfl
  refine ⟨by decide, any_font, fun h => ?_⟩
  rw [any_font, h]
  decide

/-- M19, M20. -/
theorem test_loadRegs_range :
    faultOf (atI 0x0FF1#16) 0xFF65 = (true, 2#3, 0x0FF1#16, 0x200#16) ∧
    faultOf (atI 0x1000#16) 0xF065 = (true, 2#3, 0x1000#16, 0x200#16) := by decide

/-! ### Display (2.5) -/

/-- The cells of `l` that are on. -/
def cellsOn (s : State) (l : List Nat) : List Bool := l.map s.fbCell

/-- D1, D10: a sprite that straddles the corner wraps each pixel by itself. -/
theorem test_drw_wraps :
    cellsOn (ran (sprite [0xC0#8] 63#8 31#8) 0xD011) [2047, 1984, 0, 63] = [true, true, false, false] ∧
    (ran (sprite [0xC0#8] 63#8 31#8) 0xD011).reg 15 = 0#8 ∧ (ran (sprite [0xC0#8] 63#8 31#8) 0xD011).redraw = true ∧
    cellsOn (ran (sprite [0xC0#8, 0xC0#8] 0xFF#8 0xFF#8) 0xD012) [2047, 1984, 63, 0] = [true, true, true, true] := by
  decide

/-- D2, D4, D7, D8: no row, the range fault, a collision, VF as the column. -/
theorem test_drw_flag :
    (ran (withRegs (atI 0xFFFF#16) [(0, 1#8), (15, 7#8)]) 0xD010).reg 15 = 0#8 ∧
    faultOf { withRegs (atI 0x0FFF#16) [(15, 7#8)] with redraw := true, dt := 3#8 } 0xD012 =
      (true, 2#3, 0x0FFF#16, 0x200#16) ∧
    (ran { sprite [0xFF#8] 0#8 0#8 with fb := Screen.flip Screen.clear 3 0 } 0xD011).reg 15 = 1#8 ∧
    cellsOn (ran { sprite [0xFF#8] 0#8 0#8 with fb := Screen.flip Screen.clear 3 0 } 0xD011) [0, 2, 3, 4, 7, 8] =
      [true, true, false, true, true, false] ∧
    cellsOn (ran (withRegs (sprite [0x80#8] 0#8 2#8) [(15, 5#8)]) 0xDF11) [5 + 64 * 2] = [true] := by decide

/-- D12. -/
theorem test_cls :
    (ran { r3 0#8 0#8 1#8 with fb := Screen.flip Screen.clear 5 0 } 0x00E0).fb = Screen.clear ∧
    (ran (r3 0#8 0#8 1#8) 0x00E0).redraw = true ∧ (ran (r3 0#8 0#8 1#8) 0x00E0).reg 15 = 1#8 := by decide

/-! ### Keys and timers (2.6) -/

/-- V5 and the key latches, at 0x240. -/
def keyState (v5 : Byte) (k : BitVec 16) : State := keys k (withRegs (atPc 0x240#16) [(5, v5)])

/-- K1, K2, K5. -/
theorem test_skp :
    (ran (keyState 3#8 0x0008#16) 0xE59E).pc = 0x244#16 ∧ (ran (keyState 3#8 0#16) 0xE59E).pc = 0x242#16 ∧
    faultOf (withRegs State.reset [(5, 0x10#8)]) 0xE59E = (true, 5#3, 0x0010#16, 0x200#16) := by decide

/-- K3, K4, K6. -/
theorem test_sknp :
    (ran (keyState 3#8 0#16) 0xE5A1).pc = 0x244#16 ∧ (ran (keyState 3#8 0x0008#16) 0xE5A1).pc = 0x242#16 ∧
    faultOf (withRegs State.reset [(5, 0xFF#8)]) 0xE5A1 = (true, 5#3, 0x00FF#16, 0x200#16) := by decide

/-- V4 and pc after FX0A with X = 4. -/
def waited (k : BitVec 16) : Byte × Word :=
  ((ran (keys k (withRegs State.reset [(4, 0x77#8)])) 0xF40A).reg 4,
    (ran (keys k (withRegs State.reset [(4, 0x77#8)])) 0xF40A).pc)

/-- K8 to K11. -/
theorem test_ldKey :
    waited 0#16 = (0x77#8, 0x200#16) ∧ waited 0x0008#16 = (3#8, 0x202#16) ∧ waited 0x0209#16 = (9#8, 0x202#16) ∧
    waited 0x0001#16 = (0#8, 0x202#16) := by decide

/-- K8: a stalled cycle ticks and clears `redraw`. -/
theorem test_ldKey_stall :
    statusOf State.reset 0xF40A = some .stall ∧
    (ran { State.reset with dt := 2#8, st := 1#8, redraw := true } 0xF40A).dt = 1#8 ∧
    (ran { State.reset with dt := 2#8, st := 1#8, redraw := true } 0xF40A).st = 0#8 ∧
    (ran { State.reset with dt := 2#8, st := 1#8, redraw := true } 0xF40A).redraw = false := by decide

/-- K12, K13. -/
theorem test_ldFromDT :
    (ran { State.reset with dt := 0x10#8 } 0xF307).reg 3 = 0x10#8 ∧ (ran { State.reset with dt := 0x10#8 } 0xF307).dt = 0x0F#8 ∧
    (ran (withRegs State.reset [(3, 9#8)]) 0xF307).reg 3 = 0#8 := by decide

/-- K14, K15, K16, K19. -/
theorem test_ldDT :
    (ran (withRegs State.reset [(3, 5#8)]) 0xF315).dt = 4#8 ∧ (ran { State.reset with dt := 9#8 } 0xF315).dt = 0#8 ∧
    (ran (withRegs State.reset [(3, 1#8)]) 0xF315).dt = 0#8 ∧ (ran (withRegs State.reset [(3, 0xFF#8)]) 0xF315).dt = 0xFE#8 := by
  decide

/-- K17, K18. -/
theorem test_ldST :
    (ran (withRegs State.reset [(3, 2#8)]) 0xF318).st = 1#8 ∧ (ran (withRegs State.reset [(3, 1#8)]) 0xF318).st = 0#8 := by decide

/-! ### The cycle, reset and the load (2.7, 2.8) -/

/-- Y1. -/
theorem test_unknown_cycle :
    statusOf { State.reset with dt := 2#8, st := 1#8, redraw := true } 0 = some (.unknownOpcode 0#16 0x200#16) ∧
    (ran { State.reset with dt := 2#8, st := 1#8, redraw := true } 0).pc = 0x200#16 ∧
    (ran { State.reset with dt := 2#8, st := 1#8, redraw := true } 0).dt = 1#8 ∧
    (ran { State.reset with dt := 2#8, st := 1#8, redraw := true } 0).st = 0#8 ∧
    (ran { State.reset with dt := 2#8, st := 1#8, redraw := true } 0).redraw = false := by decide

/-- The state after one step. -/
def stepped (s : State) : State :=
  match step s with
  | .next t => t
  | .fault _ => s
  | .refused _ => s

/-- B26, with no word placed. -/
theorem test_fetch_fault :
    stepped { atPc 0x10FE#16 with dt := 5#8, redraw := true } =
      { atPc 0x10FE#16 with dt := 5#8, redraw := true, loadOpen := false, halted := true, faultCode := 1#3, faultInfo := 0x10FE#16 } := by
  decide

/-- B27: an instruction at an odd address, its bytes placed by hand. -/
theorem test_odd_pc :
    (stepped (withBytes (atPc 0x203#16) 0x203 [0x6A#8, 0x55#8])).reg 10 = 0x55#8 ∧
    (stepped (withBytes (atPc 0x203#16) 0x203 [0x6A#8, 0x55#8])).pc = 0x205#16 := by decide

/-- Y11. -/
theorem test_halted_cycle :
    stepped { atPc 0xFFF#16 with dt := 3#8, halted := true, faultCode := 1#3, faultInfo := 0xFFF#16 } =
      { atPc 0xFFF#16 with dt := 3#8, halted := true, faultCode := 1#3, faultInfo := 0xFFF#16 } := by decide

/-- `withFetchWord` places the word where the fetch reads it, and changes nothing else. -/
theorem test_withFetchWord :
    (State.reset.withFetchWord 16 0x6005).fetchWord = 0x6005#16 ∧
    { State.reset.withFetchWord 16 0x6005 with mem := [] } = State.reset := by decide

/-- Z2. -/
theorem test_reset_runs_into_an_unknown_opcode :
    (stepped State.reset).pc = 0x200#16 ∧ statusOf State.reset 0 = some (.unknownOpcode 0#16 0x200#16) := by decide

/-- Z3, Z4. -/
theorem test_host :
    hostStep (.load [0x12#8, 0x00#8]) State.reset = some { State.reset with mem := [(0x200, 0x12#8)], loadOpen := false } ∧
    hostStep .reset { atPc 0x300#16 with sp := 16, halted := true, faultCode := 3#3, faultInfo := 0x300#16 } = some State.reset ∧
    hostStep (.keyWrite 3 true) State.reset = some (keys 0x0008#16 State.reset) ∧
    hostStep .clearRedraw { State.reset with redraw := true } = some State.reset := by decide

/-! ### Witnesses: for each statement with hypotheses, a concrete state and operands that meet them, clause by clause at the edges
of its ranges -/

/-- The state about to run the word `w` at 0x200. -/
def about (w : Nat) : State := State.reset.withFetchWord 16 w

theorem witness_EncodeOfDecodeIsTheWord : decode 0x8ABE#16 = .ok (.shl 0xA 0xB) := by decide

theorem witness_DecoderFollowsTheOpcodeMap :
    (⟨"8XYE", 0x800E#16, 0xF00F#16⟩ : OpcodeRow) ∈ opcodeMap ∧
    (⟨"8XYE", 0x800E#16, 0xF00F#16⟩ : OpcodeRow).Matches 0x8ABE#16 ∧ ¬ (∃ r ∈ opcodeMap, r.Matches 0x0000#16) := by decide

/-- One cycle that completes and one that faults. -/
theorem witness_StepRunsTheDecodedInstruction :
    Runs (about 0x6005) (.ldImm 0 0x05#8) ∧
    (exec (.ldImm 0 0x05#8) { about 0x6005 with redraw := false, loadOpen := false } =
      .next (executed (.ldImm 0 0x05#8) { about 0x6005 with redraw := false, loadOpen := false })) ∧
    (executed (.ldImm 0 0x05#8) { about 0x6005 with redraw := false, loadOpen := false }).halted = false ∧
    Runs (about 0x00EE) .ret ∧
    (exec .ret { about 0x00EE with redraw := false, loadOpen := false } =
      .next (executed .ret { about 0x00EE with redraw := false, loadOpen := false })) ∧
    (executed .ret { about 0x00EE with redraw := false, loadOpen := false }).halted = true :=
  ⟨by unfold Runs; decide, rfl, by decide, by unfold Runs; decide, rfl, by decide⟩

theorem meetsUnknown_reset : MeetsUnknown State.reset := ⟨by decide, by decide, .group0, by decide⟩

theorem witness_UnknownOpcodeCycle : MeetsUnknown (about 0x5AB1) := ⟨by decide, by decide, .group5, by decide⟩

theorem witness_UnknownOpcodeHangsForEver : MeetsUnknown State.reset := meetsUnknown_reset

/-- The lowest and the highest `pc` that cannot be fetched. -/
theorem witness_FetchOutsideMemoryFaults :
    (atPc 0xFFF#16).halted = false ∧ 0xFFE < (atPc 0xFFF#16).pc.toNat ∧
    (atPc 0xFFFF#16).halted = false ∧ 0xFFE < (atPc 0xFFFF#16).pc.toNat := by decide

theorem witness_HaltedCoreIgnoresCycles : { State.reset with halted := true }.halted = true := by decide

/-- A fault at the fetch, and one of an instruction. -/
theorem witness_FaultingCycleIsPrecise :
    (atPc 0xFFF#16).halted = false ∧ cycle (atPc 0xFFF#16) = .next (stepped (atPc 0xFFF#16), .fault 1#3 0xFFF#16) ∧
    (about 0x00EE).halted = false ∧ cycle (about 0x00EE) = .next (stepped (about 0x00EE), .fault 4#3 0x200#16) :=
  ⟨by decide, rfl, by decide, rfl⟩

theorem witness_TimersTickEveryCycle :
    (about 0xF315).halted = false ∧ step (about 0xF315) = .next (stepped (about 0xF315)) ∧
    (stepped (about 0xF315)).halted = false ∧ Runs (about 0xF315) (.ldDT 3) ∧ (∀ x, ¬ Runs (about 0xF315) (.ldST x)) ∧
    (about 0xF318).halted = false ∧ step (about 0xF318) = .next (stepped (about 0xF318)) ∧
    (stepped (about 0xF318)).halted = false ∧ Runs (about 0xF318) (.ldST 3) ∧ (∀ x, ¬ Runs (about 0xF318) (.ldDT x)) :=
  ⟨by decide, rfl, by decide, by unfold Runs; decide, by unfold Runs; decide,
   by decide, rfl, by decide, by unfold Runs; decide, by unfold Runs; decide⟩

/-- A cycle that draws, and one that does not. -/
theorem witness_RedrawTellsDrawingCycles :
    (about 0x00E0).halted = false ∧ step (about 0x00E0) = .next (stepped (about 0x00E0)) ∧
    (stepped (about 0x00E0)).halted = false ∧ (stepped (about 0x00E0)).redraw = true ∧
    (about 0x6005).halted = false ∧ step (about 0x6005) = .next (stepped (about 0x6005)) ∧
    (stepped (about 0x6005)).halted = false ∧ (stepped (about 0x6005)).redraw = false :=
  ⟨by decide, rfl, by decide, by decide, by decide, rfl, by decide, by decide⟩

/-- A cycle of each status. -/
theorem witness_StatusTellsTheOutcome :
    cycle (about 0x6005) = .next (stepped (about 0x6005), .ok) ∧
    cycle (about 0xF40A) = .next (stepped (about 0xF40A), .stall) ∧
    cycle (about 0x0000) = .next (stepped (about 0x0000), .unknownOpcode 0x0000#16 0x200#16) ∧
    cycle (about 0x00EE) = .next (stepped (about 0x00EE), .fault 4#3 0x200#16) := ⟨rfl, rfl, rfl, rfl⟩

theorem witness_RetReturnsPastTheCall :
    0 < { State.reset with sp := 1 }.sp.val ∧ 0 < { State.reset with sp := 16 }.sp.val ∧ State.reset.sp.val = 0 := by decide

theorem witness_CallPushesItsOwnAddress :
    State.reset.sp.val < 16 ∧ { State.reset with sp := 15 }.sp.val < 16 ∧ { State.reset with sp := 16 }.sp.val = 16 := by decide

/-- The deepest call, and the state of its callee. -/
theorem witness_ReturnUndoesCall :
    { State.reset with sp := 15 }.sp.val < 16 ∧
    exec (.call 0xABC#12) { State.reset with sp := 15 } = .next (executed (.call 0xABC#12) { State.reset with sp := 15 }) ∧
    { executed (.call 0xABC#12) { State.reset with sp := 15 } with pc := 0xABC#16, dt := 7#8 }.sp =
      (executed (.call 0xABC#12) { State.reset with sp := 15 }).sp ∧
    { executed (.call 0xABC#12) { State.reset with sp := 15 } with pc := 0xABC#16, dt := 7#8 }.stack =
      (executed (.call 0xABC#12) { State.reset with sp := 15 }).stack := ⟨by decide, rfl, rfl, rfl⟩

/-- A destination other than VF, and VF itself. -/
theorem witness_AddRegisters : (0 : Reg) ≠ VF ∧ (15 : Reg) = VF := by decide

theorem witness_SubtractRegisters : (14 : Reg) ≠ VF ∧ (15 : Reg) = VF := by decide

theorem witness_SubtractReversed : (1 : Reg) ≠ VF ∧ (15 : Reg) = VF := by decide

theorem witness_ShiftsByOne : (2 : Reg) ≠ VF ∧ (15 : Reg) = VF := by decide

theorem witness_FlagRegisterAsOperand : (0 : Reg) ≠ VF ∧ (14 : Reg) ≠ VF := by decide

theorem witness_DecimalDigitsAreStored :
    (atI 0xFFD#16).base + 2 ≤ 0xFFF ∧ 0xFFF < (atI 0xFFE#16).base + 2 := by decide

theorem witness_RegisterBlockIsStored :
    (atI 0xFF0#16).base + (15 : Reg).val ≤ 0xFFF ∧ 0xFFF < (atI 0xFF1#16).base + (15 : Reg).val ∧
    (atI 0xFFF#16).base + (0 : Reg).val ≤ 0xFFF ∧ 0xFFF < (atI 0x1000#16).base + (0 : Reg).val := by decide

theorem witness_RegisterBlockIsLoaded :
    (atI 0xFF0#16).base + (15 : Reg).val ≤ 0xFFF ∧ 0xFFF < (atI 0xFF1#16).base + (15 : Reg).val ∧
    (atI 0xFFF#16).base + (0 : Reg).val ≤ 0xFFF ∧ 0xFFF < (atI 0x1000#16).base + (0 : Reg).val := by decide

/-- Both stores, at the last addresses they fit. -/
theorem witness_LoadAfterStoreRestores :
    (executed (.storeRegs 15) (atI 0xFF0#16)).I = (atI 0xFF0#16).I ∧
    (atI 0xFF0#16).base + (15 : Reg).val ≤ 0xFFF ∧
    exec (.storeRegs 15) (atI 0xFF0#16) = .next (executed (.storeRegs 15) (atI 0xFF0#16)) ∧
    (executed (.ldB 3) (atI 0xFFD#16)).I = (atI 0xFFD#16).I ∧ (atI 0xFFD#16).base + 2 ≤ 0xFFF ∧
    exec (.ldB 3) (atI 0xFFD#16) = .next (executed (.ldB 3) (atI 0xFFD#16)) :=
  ⟨by decide, by decide, rfl, by decide, by decide, rfl⟩

/-- M23's store, of which the next word fetched is made; a store of one byte of that word; and FX33 at the last address it fits. -/
theorem witness_NextFetchSeesTheStore :
    (atI 0x202#16).base + (1 : Reg).val ≤ 0xFFF ∧
    exec (.storeRegs 1) (atI 0x202#16) = .next (executed (.storeRegs 1) (atI 0x202#16)) ∧
    (executed (.storeRegs 1) (atI 0x202#16)).pc.toNat = (atI 0x202#16).base ∧
    (atI 0x203#16).base + (0 : Reg).val ≤ 0xFFF ∧
    exec (.storeRegs 0) (atI 0x203#16) = .next (executed (.storeRegs 0) (atI 0x203#16)) ∧
    (executed (.storeRegs 0) (atI 0x203#16)).pc.toNat + 1 = (atI 0x203#16).base ∧
    (atI 0xFFD#16).base + 2 ≤ 0xFFF ∧
    exec (.ldB 3) (atI 0xFFD#16) = .next (executed (.ldB 3) (atI 0xFFD#16)) :=
  ⟨by decide, rfl, by decide, by decide, rfl, by decide, by decide, rfl⟩

/-- The word made of the bytes 0x60 and 0x05. -/
theorem witness_FetchIsBigEndian : (0x6005#16).toNat = 256 * (0x60#8).toNat + (0x05#8).toNat := by decide

/-- No row at all with `I` outside memory, the last row at 0xFFF, the last row just above. -/
theorem witness_SpriteIsDrawn :
    ((0#4).toNat = 0 ∨ (atI 0xFFFF#16).base + (0#4).toNat - 1 ≤ 0xFFF) ∧
    ((15#4).toNat = 0 ∨ (atI 0xFF1#16).base + (15#4).toNat - 1 ≤ 0xFFF) ∧
    (0 < (15#4).toNat ∧ 0xFFF < (atI 0xFF2#16).base + (15#4).toNat - 1) ∧
    (0 < (1#4).toNat ∧ 0xFFF < (atI 0x1000#16).base + (1#4).toNat - 1) := by decide

/-- A sprite pixel over a cell that is on. -/
theorem witness_SpriteIsDrawn_plotted :
    Plotted (sprite [0x80#8] 63#8 31#8) 63 31 1 63 31 ∧
    { sprite [0x80#8] 63#8 31#8 with fb := Screen.flip Screen.clear 63 31 }.fbCell (63 + 64 * 31) = true :=
  ⟨⟨0, 0, by decide⟩, by decide⟩

theorem witness_DrawingTwiceRestores :
    (0 : Reg) ≠ VF ∧ (1 : Reg) ≠ VF ∧
    ((1#4).toNat = 0 ∨ (sprite [0xC0#8] 63#8 31#8).base + (1#4).toNat - 1 ≤ 0xFFF) ∧
    exec (.drw 0 1 1#4) (sprite [0xC0#8] 63#8 31#8) = .next (executed (.drw 0 1 1#4) (sprite [0xC0#8] 63#8 31#8)) ∧
    exec (.drw 0 1 1#4) (executed (.drw 0 1 1#4) (sprite [0xC0#8] 63#8 31#8)) =
      .next (executed (.drw 0 1 1#4) (executed (.drw 0 1 1#4) (sprite [0xC0#8] 63#8 31#8))) :=
  ⟨by decide, by decide, by decide, rfl, rfl⟩

/-- Two memories that agree on the sprite and differ elsewhere. -/
theorem witness_DrawReadsOnlyItsRows :
    (∀ k < (1#4).toNat, Memory.read [(0x300, 0xC0#8), (0x301, 0xFF#8)] ((sprite [0xC0#8] 0#8 0#8).base + k) =
      (sprite [0xC0#8] 0#8 0#8).mem.read ((sprite [0xC0#8] 0#8 0#8).base + k)) ∧
    exec (.drw 0 1 1#4) (sprite [0xC0#8] 0#8 0#8) = .next (executed (.drw 0 1 1#4) (sprite [0xC0#8] 0#8 0#8)) :=
  ⟨by decide, rfl⟩

theorem witness_KeySkips :
    ((keyState 15#8 0x8000#16).reg 5).toNat ≤ 15 ∧ 15 < ((keyState 16#8 0#16).reg 5).toNat := by decide

/-- Keys 3 and 9 down, 9 the highest; and no key down. -/
theorem witness_KeyWait :
    (keys 0x0208#16 State.reset).keyDown 9 = true ∧
    (∀ j < 16, 9 < j → (keys 0x0208#16 State.reset).keyDown j = false) ∧
    (∀ k < 16, State.reset.keyDown k = false) := by decide

theorem witness_OnlyTheListedWriters :
    exec (.ldImm 0 5#8) State.reset = .next (executed (.ldImm 0 5#8) State.reset) ∧
    (Instr.ldImm 0 5#8).code ∉ ["ANNN", "FX1E", "FX29"] := ⟨rfl, by decide⟩

/-- A flag writer, and a destination that is VF. -/
theorem witness_OnlyFlagWritersTouchVF :
    exec (.addReg 0 1) (r3 0xFF#8 1#8 0#8) = .next (executed (.addReg 0 1) (r3 0xFF#8 1#8 0#8)) ∧
    (executed (.addReg 0 1) (r3 0xFF#8 1#8 0#8)).reg VF ≠ (r3 0xFF#8 1#8 0#8).reg VF ∧
    exec (.ldImm 15 5#8) State.reset = .next (executed (.ldImm 15 5#8) State.reset) ∧
    (executed (.ldImm 15 5#8) State.reset).reg VF ≠ State.reset.reg VF := ⟨rfl, by decide, rfl, by decide⟩

theorem witness_KeysReachOnlyKeyInstructions :
    (Instr.drw 0 1 1#4).code ∉ ["EX9E", "EXA1", "FX0A"] ∧
    exec (.drw 0 1 1#4) State.reset = .next (executed (.drw 0 1 1#4) State.reset) := ⟨by decide, rfl⟩

/-- The longest image that fits, a closed port, the shortest image that does not fit, a cycle of a running core. -/
theorem witness_ProgramLoad :
    State.reset.loadOpen = true ∧ (List.replicate 3584 (0#8 : Byte)).length ≤ 3584 ∧
    { State.reset with loadOpen := false }.loadOpen = false ∧ 3584 < (List.replicate 3585 (0#8 : Byte)).length ∧
    State.reset.halted = false ∧ step State.reset = .next (stepped State.reset) :=
  ⟨rfl, by simp only [List.length_replicate]; decide, rfl, by simp only [List.length_replicate]; decide, rfl, rfl⟩

theorem witness_StepKeepsTheInvariant :
    Inv (about 0xF315) ∧ step (about 0xF315) = .next (stepped (about 0xF315)) :=
  ⟨⟨by decide, by decide, by decide, by decide, by decide, by decide⟩, rfl⟩

/-- Reset, a load, a key press, a cycle. -/
theorem witness_ReachableStatesMeetTheInvariant :
    Reachable (stepped (keys 0x0008#16 { State.reset with mem := [(0x200, 0x12#8)], loadOpen := false })) :=
  .cycle (.host (.keyWrite 3 true) (.host (.load [0x12#8, 0x00#8]) .reset rfl) rfl) rfl

/-- The screen of the reset state is off. -/
theorem fbCell_reset (k : Nat) : State.reset.fbCell k = false := by
  simp only [State.fbCell, Screen.cell, Screen.row, State.reset, Vector.getElem?_replicate]
  split <;> simp

/-- The largest digit, its glyph drawn at column 63 and row 31, where it wraps. -/
theorem witness_DigitGlyphComesFromFont :
    ((withRegs State.reset [(0, 15#8), (1, 63#8), (2, 31#8)]).reg 0).toNat ≤ 15 ∧
    (∀ k < 80, (withRegs State.reset [(0, 15#8), (1, 63#8), (2, 31#8)]).mem.read k = State.reset.mem.read k) ∧
    (∀ k < 2048, (withRegs State.reset [(0, 15#8), (1, 63#8), (2, 31#8)]).fbCell k = false) ∧
    exec (.ldF 0) (withRegs State.reset [(0, 15#8), (1, 63#8), (2, 31#8)]) =
      .next (executed (.ldF 0) (withRegs State.reset [(0, 15#8), (1, 63#8), (2, 31#8)])) ∧
    exec (.drw 1 2 5#4) (executed (.ldF 0) (withRegs State.reset [(0, 15#8), (1, 63#8), (2, 31#8)])) =
      .next (executed (.drw 1 2 5#4) (executed (.ldF 0) (withRegs State.reset [(0, 15#8), (1, 63#8), (2, 31#8)]))) :=
  ⟨by decide, fun _ _ => rfl, fun k _ => fbCell_reset k, rfl, rfl⟩

end Sys2Proof.Tests
end

/-! What each instruction that can fault or wait can do, said once, as `State.storeAtIndex_cases` and `State.skipIfKey_cases` say
it for the stores and the key skips. -/

namespace Sys2Proof.Machine

/-- 00EE returns behind the call on top of the stack, or raises STACK_UNDERFLOW (R140). -/
theorem execRet_cases {s t : State} (h : execRet s = .next t) :
    (∃ hs : 0 < s.sp.val, t = { s with
      sp := ⟨s.sp.val - 1, by omega⟩, pc := s.stack[s.sp.val - 1]'(by omega) + 2#16 }) ∨
    (s.sp.val = 0 ∧ t = s.haltWith FaultKind.stackUnderflow.code s.pc) := by
  by_cases hs : 0 < s.sp.val
  · rw [execRet, State.pop_eq s hs] at h
    exact .inl ⟨hs, (Host.Outcome.next.inj h).symm⟩
  · have h0 : s.sp.val = 0 := by omega
    rw [execRet, State.pop_empty s h0] at h
    exact .inr ⟨h0, (Host.Outcome.next.inj h).symm⟩

/-- 2NNN pushes its own address and jumps, or raises STACK_OVERFLOW (R142). -/
theorem execCall_cases {s t : State} {nnn : Addr} (h : execCall nnn s = .next t) :
    (∃ hs : s.sp.val < 16, t = { s with
      stack := s.stack.set s.sp.val s.pc hs, sp := ⟨s.sp.val + 1, by omega⟩, pc := zextAddr nnn }) ∨
    (s.sp.val = 16 ∧ t = s.haltWith FaultKind.stackOverflow.code s.pc) := by
  by_cases hs : s.sp.val < 16
  · rw [execCall, State.push_eq s s.pc hs] at h
    exact .inl ⟨hs, (Host.Outcome.next.inj h).symm⟩
  · have h16 : s.sp.val = 16 := by omega
    rw [execCall, State.push_full s s.pc h16] at h
    exact .inr ⟨h16, (Host.Outcome.next.inj h).symm⟩

/-- What DXYN leaves on the screen and in the collision flag (R201). -/
def State.drawn (s : State) (x y : Reg) (n : Nibble) : Screen × Bool :=
  Screen.draw s.fb (s.reg x).toNat (s.reg y).toNat (s.mem.readBytes s.base n.toNat)

/-- DXYN draws its sprite, or raises MEM_RANGE (R201). -/
theorem execDrw_cases {s t : State} {x y : Reg} {n : Nibble} (h : execDrw x y n s = .next t) :
    (s.accessFits n.toNat = true ∧
      t = (s.setReg VF (collisionFlag (s.drawn x y n).2)).present (s.drawn x y n).1) ∨
    (s.accessFits n.toNat = false ∧ t = s.haltWith FaultKind.memRange.code s.I) := by
  cases hf : s.accessFits n.toNat with
  | true =>
    rw [execDrw, if_pos hf] at h
    exact .inl ⟨rfl, (Host.Outcome.next.inj h).symm⟩
  | false =>
    rw [execDrw, hf, if_neg Bool.false_ne_true] at h
    exact .inr ⟨rfl, (Host.Outcome.next.inj h).symm⟩

/-- FX65 loads its block of registers, or raises MEM_RANGE (R185). -/
theorem execLoadRegs_cases {s t : State} {x : Reg} (h : execLoadRegs x s = .next t) :
    (s.accessFits (x.val + 1) = true ∧
      t = (s.setV (setRegBlock s.V 0 (s.mem.readBytes s.base (x.val + 1)))).advance 2) ∨
    (s.accessFits (x.val + 1) = false ∧ t = s.haltWith FaultKind.memRange.code s.I) := by
  cases hf : s.accessFits (x.val + 1) with
  | true =>
    rw [execLoadRegs, if_pos hf] at h
    exact .inl ⟨rfl, (Host.Outcome.next.inj h).symm⟩
  | false =>
    rw [execLoadRegs, hf, if_neg Bool.false_ne_true] at h
    exact .inr ⟨rfl, (Host.Outcome.next.inj h).symm⟩

/-- FX0A takes the highest key down, or changes nothing when there is none (R212). -/
theorem execLdKey_cases {s t : State} {x : Reg} (h : execLdKey x s = .next t) :
    (∃ k, s.highestKey = some k ∧ t = (s.setReg x (BitVec.ofNat 8 k)).advance 2) ∨
    (s.highestKey = none ∧ t = s) := by
  cases hk : s.highestKey with
  | some k =>
    rw [execLdKey, hk] at h
    exact .inl ⟨k, rfl, (Host.Outcome.next.inj h).symm⟩
  | none =>
    rw [execLdKey, hk] at h
    exact .inr ⟨rfl, (Host.Outcome.next.inj h).symm⟩

end Sys2Proof.Machine

/-! The frame of the execute phase, said once for all instructions: what each instruction may write, and that it leaves the rest
as it is. `Leaves` compares the data itself, where `Frame.But` compares what reads give. -/

namespace Sys2Proof.Frame

open Sys2Proof.Machine

/-- The part is the same data in both states. -/
def Kept (p : Part) (s t : State) : Prop :=
  match p with
  | .index => t.I = s.I
  | .pc => t.pc = s.pc
  | .sp => t.sp = s.sp
  | .stack => t.stack = s.stack
  | .mem => t.mem = s.mem
  | .dt => t.dt = s.dt
  | .st => t.st = s.st
  | .screen => t.fb = s.fb
  | .redraw => t.redraw = s.redraw
  | .fault => t.halted = s.halted ∧ t.faultCode = s.faultCode ∧ t.faultInfo = s.faultInfo
  | .key => t.key = s.key
  | .loadOpen => t.loadOpen = s.loadOpen
  | .draws => t.draws = s.draws

theorem Kept.refl (p : Part) (s : State) : Kept p s s := by
  cases p <;> simp [Kept]

theorem Kept.trans {p : Part} {s t u : State} (h : Kept p s t) (h' : Kept p t u) : Kept p s u := by
  cases p
  case fault =>
    obtain ⟨hh, hc, hi⟩ := h
    obtain ⟨hh', hc', hi'⟩ := h'
    exact ⟨hh'.trans hh, hc'.trans hc, hi'.trans hi⟩
  all_goals exact Eq.trans h' h

/-- The same data reads the same. -/
theorem Kept.same {p : Part} {s t : State} (h : Kept p s t) : Same p s t := by
  cases p
  case stack => exact fun k => congrArg (fun v => v[k.val]'k.isLt) h
  case mem => exact fun a => congrArg (fun m => m.read a) h
  case screen => exact fun k _ => congrArg (fun f => Screen.cell f (k % 64) (k / 64)) h
  all_goals exact h

/-- Every register but those of `regs` and every part but those of `parts` is the same data in both states. -/
structure Leaves (regs : Reg → Prop) (parts : List Part) (s t : State) : Prop where
  reg : ∀ r, ¬ regs r → t.reg r = s.reg r
  part : ∀ p, p ∉ parts → Kept p s t

section
variable {regs : Reg → Prop} {parts : List Part} {s t u : State}

theorem Leaves.but (h : Leaves regs parts s t) : But regs parts s t :=
  ⟨h.reg, fun p hp => (h.part p hp).same⟩

theorem Leaves.refl (regs : Reg → Prop) (parts : List Part) (s : State) : Leaves regs parts s s :=
  ⟨fun _ _ => rfl, fun p _ => Kept.refl p s⟩

theorem Leaves.trans (h : Leaves regs parts s t) (h' : Leaves regs parts t u) : Leaves regs parts s u :=
  ⟨fun r hr => (h'.reg r hr).trans (h.reg r hr), fun p hp => (h.part p hp).trans (h'.part p hp)⟩

/-! ### One rule per operation of the state -/

theorem leaves_setReg {x : Reg} (hx : regs x) {b : Byte} : Leaves regs parts s (s.setReg x b) where
  reg r hr := by
    have hne : r ≠ x := fun e => hr (e ▸ hx)
    simp [hne]
  part p _ := by cases p <;> simp [Kept]

theorem leaves_setV {V : Vector Byte 16} (hV : ∀ r : Reg, ¬ regs r → V[r.val]'r.isLt = s.reg r) :
    Leaves regs parts s (s.setV V) where
  reg r hr := by simp [hV r hr]
  part p _ := by cases p <;> simp [Kept]

/-- A state with the same registers that differs in one part only. -/
theorem leaves_of_kept {q : Part} (hq : q ∈ parts) (hV : t.V = s.V) (hk : ∀ p, p ≠ q → Kept p s t) :
    Leaves regs parts s t where
  reg r _ := by simp only [State.reg, hV]
  part p hp := hk p fun e => hp (e ▸ hq)

theorem leaves_setI (h : .index ∈ parts) {w : Word} : Leaves regs parts s (s.setI w) :=
  leaves_of_kept h rfl fun p hp => by cases p <;> simp [Kept] at hp ⊢

theorem leaves_setMem (h : .mem ∈ parts) {m : Memory} : Leaves regs parts s (s.setMem m) :=
  leaves_of_kept h rfl fun p hp => by cases p <;> simp [Kept] at hp ⊢

theorem leaves_setDT (h : .dt ∈ parts) {b : Byte} : Leaves regs parts s (s.setDT b) :=
  leaves_of_kept h rfl fun p hp => by cases p <;> simp [Kept] at hp ⊢

theorem leaves_setST (h : .st ∈ parts) {b : Byte} : Leaves regs parts s (s.setST b) :=
  leaves_of_kept h rfl fun p hp => by cases p <;> simp [Kept] at hp ⊢

theorem leaves_setFb (h : .screen ∈ parts) {f : Screen} : Leaves regs parts s (s.setFb f) :=
  leaves_of_kept h rfl fun p hp => by cases p <;> simp [Kept] at hp ⊢

theorem leaves_setRedraw (h : .redraw ∈ parts) {b : Bool} : Leaves regs parts s (s.setRedraw b) :=
  leaves_of_kept h rfl fun p hp => by cases p <;> simp [Kept] at hp ⊢

theorem leaves_advance (h : .pc ∈ parts) {k : Nat} : Leaves regs parts s (s.advance k) :=
  leaves_of_kept h rfl fun p hp => by cases p <;> simp [Kept] at hp ⊢

theorem leaves_jump (h : .pc ∈ parts) {w : Word} : Leaves regs parts s (s.jump w) :=
  leaves_of_kept h rfl fun p hp => by cases p <;> simp [Kept] at hp ⊢

theorem leaves_haltWith (h : .fault ∈ parts) {c : BitVec 3} {w : Word} : Leaves regs parts s (s.haltWith c w) :=
  leaves_of_kept h rfl fun p hp => by cases p <;> simp [Kept] at hp ⊢

theorem leaves_countDraw (h : .draws ∈ parts) : Leaves regs parts s s.countDraw :=
  leaves_of_kept h rfl fun p hp => by cases p <;> simp [Kept] at hp ⊢

theorem leaves_writeKey (h : .key ∈ parts) {k : Reg} {d : Bool} : Leaves regs parts s (s.writeKey k d) :=
  leaves_of_kept h rfl fun p hp => by cases p <;> simp [Kept] at hp ⊢

/-! ### The operations that several instructions share -/

theorem leaves_load (h : .pc ∈ parts) {x : Reg} (hx : regs x) {b : Byte} : Leaves regs parts s (s.load x b) :=
  (leaves_setReg hx).trans (leaves_advance h)

theorem leaves_flagThen (h : .pc ∈ parts) {x : Reg} (hx : regs x) (hf : regs VF) {f : Byte} {op : Byte → Byte → Byte}
    {y : Reg} : Leaves regs parts s (s.flagThen f op x y) :=
  (leaves_setReg hf).trans (leaves_load h hx)

theorem leaves_loadIndex (hi : .index ∈ parts) (h : .pc ∈ parts) {w : Word} : Leaves regs parts s (s.loadIndex w) :=
  (leaves_setI hi).trans (leaves_advance h)

theorem leaves_present (hf : .screen ∈ parts) (hr : .redraw ∈ parts) (h : .pc ∈ parts) {f : Screen} :
    Leaves regs parts s (s.present f) :=
  ((leaves_setFb hf).trans (leaves_setRedraw hr)).trans (leaves_advance h)

theorem leaves_storeAtIndex (hm : .mem ∈ parts) (h : .pc ∈ parts) (hf : .fault ∈ parts) {bs : List Byte}
    (e : s.storeAtIndex bs = .next t) : Leaves regs parts s t := by
  obtain ⟨-, rfl⟩ | ⟨-, rfl⟩ := State.storeAtIndex_cases e
  · exact (leaves_setMem hm).trans (leaves_advance h)
  · exact leaves_haltWith hf

theorem leaves_skipIfKey (h : .pc ∈ parts) (hf : .fault ∈ parts) {x : Reg} {want : Bool}
    (e : s.skipIfKey x want = .next t) : Leaves regs parts s t := by
  obtain ⟨-, rfl⟩ | ⟨-, rfl⟩ := State.skipIfKey_cases e
  · exact leaves_advance h
  · exact leaves_haltWith hf

/-- An execute phase that answers one state whatever happens. -/
theorem Leaves.of_next (h : Leaves regs parts s u)
    (e : (Host.Outcome.next u : Host.Outcome State Fault Refusal) = .next t) : Leaves regs parts s t :=
  Host.Outcome.next.inj e ▸ h

end

end Sys2Proof.Frame

/-! The frame of the execute phase: what each instruction may write (spec/10_state.md R21, R37), and that it leaves the rest. -/

namespace Sys2Proof.Frame

open Sys2Proof.Machine

/-- The registers an instruction may write: its destination, VF if it is a flag writer (R21), the block of FX65 (R185). -/
def writesReg : Instr → Reg → Prop
  | .ldImm x _ | .addImm x _ | .ldReg x _ | .orReg x _ | .andReg x _ | .xorReg x _ | .rnd x _ | .ldFromDT x | .ldKey x =>
    fun r => r = x
  | .addReg x _ | .sub x _ | .shr x _ | .subn x _ | .shl x _ => fun r => r = x ∨ r = VF
  | .drw _ _ _ | .addI _ => fun r => r = VF
  | .loadRegs x => fun r => r ≤ x
  | .cls | .ret | .jp _ | .call _ | .seImm _ _ | .sneImm _ _ | .seReg _ _ | .sneReg _ _ | .ldI _ | .jpV0 _ | .skp _
  | .sknp _ | .ldDT _ | .ldST _ | .ldF _ | .ldB _ | .storeRegs _ => noReg

/-- The parts of the state an instruction may write, `fault` where it can raise one (R37, R232). -/
def writesParts : Instr → List Part
  | .cls => [.pc, .screen, .redraw]
  | .drw _ _ _ => [.pc, .screen, .redraw, .fault]
  | .ret => [.pc, .sp, .fault]
  | .call _ => [.pc, .sp, .stack, .fault]
  | .ldI _ | .addI _ | .ldF _ => [.pc, .index]
  | .ldDT _ => [.pc, .dt]
  | .ldST _ => [.pc, .st]
  | .rnd _ _ => [.pc, .draws]
  | .ldB _ | .storeRegs _ => [.pc, .mem, .fault]
  | .skp _ | .sknp _ | .loadRegs _ => [.pc, .fault]
  | .jp _ | .seImm _ _ | .sneImm _ _ | .seReg _ _ | .ldImm _ _ | .addImm _ _ | .ldReg _ _ | .orReg _ _ | .andReg _ _
  | .xorReg _ _ | .addReg _ _ | .sub _ _ | .shr _ _ | .subn _ _ | .shl _ _ | .sneReg _ _ | .jpV0 _ | .ldFromDT _
  | .ldKey _ => [.pc]

theorem pc_mem_writesParts (i : Instr) : Part.pc ∈ writesParts i := by
  cases i <;> exact List.mem_cons_self

/-- The block FX65 loads ends at V[x] (R185). -/
theorem setRegBlock_above (V : Vector Byte 16) {x r : Reg} {bs : List Byte} (hl : bs.length = x.val + 1) (hr : ¬ r ≤ x) :
    (setRegBlock V 0 bs)[r.val]'r.isLt = V[r.val]'r.isLt := by
  have hx : x.val < r.val := by simpa using hr
  rw [setRegBlock_getElem, dif_neg (by omega)]

/-- The frame of every instruction: the execute phase writes what is listed for it and nothing else. -/
theorem exec_leaves {i : Instr} {s t : State} (h : exec i s = .next t) :
    Leaves (writesReg i) (writesParts i) s t := by
  have hpc := pc_mem_writesParts i
  cases i
  case cls => exact .of_next (leaves_present (by simp [writesParts]) (by simp [writesParts]) hpc) h
  case ret =>
    obtain ⟨hs, rfl⟩ | ⟨-, rfl⟩ := execRet_cases h
    · refine ⟨fun _ _ => rfl, fun p hp => ?_⟩
      cases p <;> simp [Kept, writesParts] at hp ⊢
    · exact leaves_haltWith (by simp [writesParts])
  case call nnn =>
    obtain ⟨hs, rfl⟩ | ⟨-, rfl⟩ := execCall_cases h
    · refine ⟨fun _ _ => rfl, fun p hp => ?_⟩
      cases p <;> simp [Kept, writesParts] at hp ⊢
    · exact leaves_haltWith (by simp [writesParts])
  case jp | jpV0 => exact .of_next (leaves_jump hpc) h
  case seImm | sneImm | seReg | sneReg => exact .of_next (leaves_advance hpc) h
  case ldImm | addImm | ldReg | orReg | andReg | xorReg | ldFromDT => exact .of_next (leaves_load hpc (by simp [writesReg])) h
  case addReg | sub | shr | subn | shl =>
    exact .of_next (leaves_flagThen hpc (by simp [writesReg]) (by simp [writesReg])) h
  case ldI | ldF => exact .of_next (leaves_loadIndex (by simp [writesParts]) hpc) h
  case addI => exact .of_next ((leaves_setReg (by simp [writesReg])).trans (leaves_loadIndex (by simp [writesParts]) hpc)) h
  case rnd => exact .of_next ((leaves_countDraw (by simp [writesParts])).trans (leaves_load hpc (by simp [writesReg]))) h
  case drw =>
    obtain ⟨-, rfl⟩ | ⟨-, rfl⟩ := execDrw_cases h
    · exact (leaves_setReg (by simp [writesReg])).trans (leaves_present (by simp [writesParts]) (by simp [writesParts]) hpc)
    · exact leaves_haltWith (by simp [writesParts])
  case skp | sknp => exact leaves_skipIfKey hpc (by simp [writesParts]) h
  case ldKey =>
    obtain ⟨k, -, rfl⟩ | ⟨-, rfl⟩ := execLdKey_cases h
    · exact leaves_load hpc (by simp [writesReg])
    · exact .refl _ _ _
  case ldDT => exact .of_next ((leaves_setDT (by simp [writesParts])).trans (leaves_advance hpc)) h
  case ldST => exact .of_next ((leaves_setST (by simp [writesParts])).trans (leaves_advance hpc)) h
  case ldB | storeRegs =>
    exact leaves_storeAtIndex (by simp [writesParts]) hpc (by simp [writesParts]) h
  case loadRegs =>
    obtain ⟨-, rfl⟩ | ⟨-, rfl⟩ := execLoadRegs_cases h
    · exact (leaves_setV fun r hr => setRegBlock_above s.V (Memory.readBytes_length ..) hr).trans (leaves_advance hpc)
    · exact leaves_haltWith (by simp [writesParts])

/-- A part the instruction does not write is the same data after it. -/
theorem exec_kept {i : Instr} {s t : State} (h : exec i s = .next t) {p : Part} (hp : p ∉ writesParts i) : Kept p s t :=
  (exec_leaves h).part p hp

/-- A register the instruction does not write reads as before. -/
theorem exec_reg {i : Instr} {s t : State} (h : exec i s = .next t) {r : Reg} (hr : ¬ writesReg i r) :
    t.reg r = s.reg r :=
  (exec_leaves h).reg r hr

end Sys2Proof.Frame

/-! O45, O46: who writes each part of the state, and who writes VF, read off the frame of the execute phase. -/

namespace Sys2Proof.Frame

open Sys2Proof.Machine

/-- The codes under which each part may be written (R37, R232); `pc` is written under every code. -/
def writerCodes : Part → List String
  | .index => ["ANNN", "FX1E", "FX29"]
  | .sp => ["00EE", "2NNN"]
  | .stack => ["2NNN"]
  | .mem => ["FX33", "FX55"]
  | .dt => ["FX15"]
  | .st => ["FX18"]
  | .screen | .redraw => ["00E0", "DXYN"]
  | .fault => ["00EE", "2NNN", "DXYN", "FX33", "FX55", "FX65", "EX9E", "EXA1"]
  | .draws => ["CXNN"]
  | .pc | .key | .loadOpen => []

/-- What an instruction may write agrees with the writers listed for each part. -/
theorem code_mem_writerCodes (i : Instr) : ∀ p ∈ writesParts i, p ≠ .pc → i.code ∈ writerCodes p := by
  cases i <;> simp [writesParts, writerCodes, Instr.code]

/-- A part is the same after an instruction that is not listed as its writer. -/
theorem same_of_not_writer {i : Instr} {s t : State} (h : exec i s = .next t) {p : Part} (hpc : p ≠ .pc)
    (hw : i.code ∉ writerCodes p) : Same p s t :=
  (exec_kept h fun hm => hw (code_mem_writerCodes i p hm hpc)).same

/-- Settles O45: the frame of the execute phase, one part after the other. -/
theorem onlyTheListedWriters : Obligations.OnlyTheListedWriters := by
  intro i s t h
  have same {p : Part} (hpc : p ≠ .pc) (hw : i.code ∉ writerCodes p) : Same p s t := same_of_not_writer h hpc hw
  exact ⟨same (p := .index) (by decide), same (p := .sp) (by decide), same (p := .stack) (by decide),
    same (p := .mem) (by decide), same (p := .dt) (by decide), same (p := .st) (by decide),
    fun hw => ⟨same (p := .screen) (by decide) hw, same (p := .redraw) (by decide) hw⟩,
    same (p := .fault) (by decide), same (p := .draws) (by decide),
    same (p := .key) (by decide) List.not_mem_nil, same (p := .loadOpen) (by decide) List.not_mem_nil⟩

theorem fieldX_encodeXNN (op : BitVec 4) (x : Reg) (nn : Byte) : fieldX (encodeXNN op x nn) = x :=
  (fields_encodeXNN op x nn).2.1

theorem fieldX_encodeXYN (op : BitVec 4) (x y : Reg) (n : Nibble) : fieldX (encodeXYN op x y n) = x :=
  (fields_encodeXYN op x y n).2.1

/-- The codes of the instructions that write a flag into VF (R21). -/
def flagWriterCodes : List String := ["8XY4", "8XY5", "8XY7", "8XY6", "8XYE", "FX1E", "DXYN"]

/-- The codes of the instructions that write the registers X names and no flag (R21). -/
def destinationCodes : List String :=
  ["6XNN", "7XNN", "8XY0", "8XY1", "8XY2", "8XY3", "CXNN", "FX07", "FX0A", "FX65"]

/-- An instruction that may write VF is a flag writer or names VF as its destination. -/
theorem writesReg_VF {i : Instr} (h : writesReg i VF) :
    i.code ∈ flagWriterCodes ∨ (i.code ∈ destinationCodes ∧ fieldX (encode i) = VF) := by
  cases i
  case addReg | sub | shr | subn | shl | drw | addI => exact .inl (by simp [Instr.code, flagWriterCodes])
  case ldImm x _ | addImm x _ | rnd x _ | ldFromDT x | ldKey x =>
    exact .inr ⟨by simp [Instr.code, destinationCodes], (fieldX_encodeXNN _ x _).trans (Eq.symm h)⟩
  case ldReg x _ | orReg x _ | andReg x _ | xorReg x _ =>
    exact .inr ⟨by simp [Instr.code, destinationCodes], (fieldX_encodeXYN _ x _ _).trans (Eq.symm h)⟩
  case loadRegs x =>
    have hx : x = VF := le_antisymm (Fin.le_last x) h
    exact .inr ⟨by simp [Instr.code, destinationCodes], (fieldX_encodeXNN _ x _).trans hx⟩
  all_goals exact h.elim

/-- Settles O46: a register that changed is one the instruction may write. -/
theorem onlyFlagWritersTouchVF : Obligations.OnlyFlagWritersTouchVF := by
  intro i s t h hne
  exact writesReg_VF (by_contra fun hw => hne (exec_reg h hw))

end Sys2Proof.Frame

/-! O52, O53: the invariant holds at reset, and the pieces of a cycle keep it (spec/10_state.md R23, R33, R36). -/

namespace Sys2Proof.Safety

open Sys2Proof.Machine Sys2Proof.Frame

/-! ### What the execute phase does to memory, the stack and `pc` -/

theorem exec_keeps_wf {i : Instr} {s t : State} (h : exec i s = .next t) (hwf : s.mem.wf = true) : t.mem.wf = true := by
  cases i
  case ldB | storeRegs =>
    obtain ⟨-, rfl⟩ | ⟨-, rfl⟩ := State.storeAtIndex_cases h
    · exact Memory.writeBytes_wf hwf _ _
    · exact hwf
  all_goals
    have hmem := exec_kept h (p := .mem) (by simp [writesParts])
    exact (congrArg Memory.wf hmem).trans hwf

/-- A CALL stacks its own address, and nothing else writes the stack (R142). -/
theorem exec_stack_cases {i : Instr} {s t : State} (h : exec i s = .next t) :
    t.stack = s.stack ∨ ∃ hs : s.sp.val < 16, t.stack = s.stack.set s.sp.val s.pc hs := by
  cases i
  case call =>
    obtain ⟨hs, rfl⟩ | ⟨-, rfl⟩ := execCall_cases h
    · exact .inr ⟨hs, rfl⟩
    · exact .inl rfl
  all_goals exact .inl (exec_kept h (p := .stack) (by simp [writesParts]))

/-- Where an instruction can go on (R23): at most two words further, where it stays included; at the target of a jump; or
behind a stacked call. -/
def NextPc (s : State) (pc : Word) : Prop :=
  (∃ k ≤ 4, pc = s.pc + BitVec.ofNat 16 k) ∨ (∃ nnn b, pc = zextAddr nnn + zextByte b) ∨
    ∃ k : Fin 16, pc = s.stack[k.val]'k.isLt + 2#16

theorem nextPc_self (s : State) : NextPc s s.pc := .inl ⟨0, by omega, by simp⟩

theorem nextPc_two (s : State) : NextPc s (s.pc + 2#16) := .inl ⟨2, by omega, rfl⟩

theorem nextPc_skipIf (s : State) (c : Bool) : NextPc s (s.skipIf c).pc := by
  cases c
  · exact nextPc_two s
  · exact .inl ⟨4, by omega, rfl⟩

theorem nextPc_zextAddr (s : State) (nnn : Addr) : NextPc s (zextAddr nnn) :=
  .inr (.inl ⟨nnn, 0#8, by simp [zextByte]⟩)

theorem nextPc_of_next {s t u : State} (hu : NextPc s u.pc)
    (e : (Host.Outcome.next u : Host.Outcome State Fault Refusal) = .next t) : NextPc s t.pc :=
  Host.Outcome.next.inj e ▸ hu

theorem exec_nextPc {i : Instr} {s t : State} (h : exec i s = .next t) : NextPc s t.pc := by
  cases i
  case ret =>
    obtain ⟨hs, rfl⟩ | ⟨-, rfl⟩ := execRet_cases h
    · exact .inr (.inr ⟨⟨s.sp.val - 1, by omega⟩, rfl⟩)
    · exact nextPc_self s
  case jp nnn => exact nextPc_of_next (nextPc_zextAddr s nnn) h
  case call nnn =>
    obtain ⟨-, rfl⟩ | ⟨-, rfl⟩ := execCall_cases h
    · exact nextPc_zextAddr s nnn
    · exact nextPc_self s
  case jpV0 nnn => exact nextPc_of_next (.inr (.inl ⟨nnn, s.reg 0, rfl⟩)) h
  case seImm | sneImm | seReg | sneReg => exact nextPc_of_next (nextPc_skipIf s _) h
  case skp | sknp =>
    obtain ⟨-, rfl⟩ | ⟨-, rfl⟩ := State.skipIfKey_cases h
    · exact nextPc_skipIf s _
    · exact nextPc_self s
  case ldB | storeRegs =>
    obtain ⟨-, rfl⟩ | ⟨-, rfl⟩ := State.storeAtIndex_cases h
    · exact nextPc_two s
    · exact nextPc_self s
  case drw =>
    obtain ⟨-, rfl⟩ | ⟨-, rfl⟩ := execDrw_cases h
    · exact nextPc_two s
    · exact nextPc_self s
  case loadRegs =>
    obtain ⟨-, rfl⟩ | ⟨-, rfl⟩ := execLoadRegs_cases h
    · exact nextPc_two s
    · exact nextPc_self s
  case ldKey =>
    obtain ⟨k, -, rfl⟩ | ⟨-, rfl⟩ := execLdKey_cases h
    · exact nextPc_two s
    · exact nextPc_self _
  all_goals exact nextPc_of_next (nextPc_two s) h

/-- From a fetchable `pc` and a stack of call addresses no 16-bit sum for `pc` passes 0x10FE (R23). -/
theorem nextPc_le {s : State} {pc : Word} (h : NextPc s pc) (hp : s.pc.toNat ≤ 0xFFE)
    (hs : ∀ k : Fin 16, (s.stack[k.val]'k.isLt).toNat ≤ 0xFFE) : pc.toNat ≤ 0x10FE := by
  obtain ⟨k, hk, rfl⟩ | ⟨nnn, b, rfl⟩ | ⟨k, rfl⟩ := h
  · rw [BitVec.toNat_add, BitVec.toNat_ofNat]
    omega
  · simp only [zextAddr, zextByte, BitVec.toNat_add, BitVec.toNat_setWidth]
    omega
  · have hk := hs k
    rw [BitVec.toNat_add, BitVec.toNat_ofNat]
    omega

/-! ### The pieces of a cycle keep the invariant -/

theorem faultKind_code_bounds (k : FaultKind) : 1 ≤ k.code.toNat ∧ k.code.toNat ≤ 5 := by
  cases k <;> decide

theorem inv_startCycle {s : State} (h : Inv s) : Inv s.startCycle where
  memory := h.memory
  pc := h.pc
  stack := h.stack
  noFault := h.noFault
  faultRecorded := h.faultRecorded
  haltedClosed _ := rfl

theorem inv_tick {s : State} (h : Inv s) : Inv s.tick where
  memory := h.memory
  pc := h.pc
  stack := h.stack
  noFault := h.noFault
  faultRecorded := h.faultRecorded
  haltedClosed := h.haltedClosed

theorem inv_closeLoad_haltWith {s : State} (h : Inv s) {c : BitVec 3} (hc : 1 ≤ c.toNat ∧ c.toNat ≤ 5) (w : Word) :
    Inv (s.closeLoad.haltWith c w) where
  memory := h.memory
  pc := h.pc
  stack := h.stack
  noFault hr := absurd hr (by simp)
  faultRecorded _ := hc
  haltedClosed _ := rfl

/-- An execute phase that halted a running core recorded one of the five faults (R232). -/
theorem exec_halted_code {i : Instr} {s t : State} (h : exec i s = .next t) (hr : s.halted = false)
    (ht : t.halted = true) : 1 ≤ t.faultCode.toNat ∧ t.faultCode.toNat ≤ 5 := by
  obtain ⟨hh, -, -⟩ | ⟨k, w, rfl⟩ := exec_keeps_or_raises h
  · rw [hh, hr] at ht
    exact absurd ht Bool.false_ne_true
  · exact faultKind_code_bounds k

/-- An execute phase that raised no fault keeps the invariant where the cycle runs it: on a fetchable `pc`. -/
theorem exec_keeps_inv {i : Instr} {s t : State} (hs : Inv s) (hp : s.pc.toNat ≤ 0xFFE) (h : exec i s = .next t)
    (hr : s.halted = false) (ht : t.halted = false) : Inv t where
  memory := exec_keeps_wf h hs.memory
  pc := nextPc_le (exec_nextPc h) hp hs.stack
  stack k := by
    obtain e | ⟨hsp, e⟩ := exec_stack_cases h
    · simpa only [e] using hs.stack k
    · simp only [e, Vector.getElem_set]
      split
      · exact hp
      · exact hs.stack k
  noFault _ := by
    obtain ⟨-, hc, hi⟩ | ⟨k, w, rfl⟩ := exec_keeps_or_raises h
    · rw [hc, hi]
      exact hs.noFault hr
    · exact absurd ht (by simp)
  faultRecorded hh := absurd (ht.symm.trans hh) Bool.false_ne_true
  haltedClosed hh := absurd (ht.symm.trans hh) Bool.false_ne_true

/-- Settles O53, by what a step can do: nothing, a fault of the fetch, an unknown opcode, or an execute phase. -/
theorem stepKeepsTheInvariant : Obligations.StepKeepsTheInvariant := by
  intro s t hs h
  obtain ⟨-, rfl⟩ | ⟨-, -, rfl⟩ | ⟨-, -, -, rfl⟩ | ⟨hr, hp, i, u, -, he, rfl⟩ := step_cases h
  · exact hs
  · exact inv_closeLoad_haltWith hs (faultKind_code_bounds .fetchRange) s.pc
  · exact inv_tick (inv_startCycle hs)
  · cases hu : u.halted with
    | true => exact inv_closeLoad_haltWith hs (exec_halted_code he hr hu) u.faultInfo
    | false => exact inv_tick (exec_keeps_inv (inv_startCycle hs) hp he hr hu)

/-- Settles O52. -/
theorem resetMeetsTheInvariant : Obligations.ResetMeetsTheInvariant where
  memory := rfl
  pc := by decide
  stack := by decide
  noFault _ := ⟨rfl, rfl⟩
  faultRecorded h := absurd h Bool.false_ne_true
  haltedClosed h := absurd h Bool.false_ne_true

end Sys2Proof.Safety

/-! O14, O56: the redraw flag (spec/10_state.md R32). -/

namespace Sys2Proof.Frame

open Sys2Proof.Machine

/-- After an execute phase without a fault `redraw` is set when the instruction draws, else as it was (R200, R201). -/
theorem exec_redraw {i : Instr} {s t : State} (h : exec i s = .next t) (ht : t.halted = false) :
    t.redraw = true ↔ s.redraw = true ∨ i.code ∈ writerCodes .redraw := by
  by_cases hc : i.code ∈ writerCodes .redraw
  · suffices hset : t.redraw = true by simp [hset, hc]
    cases i
    case cls => exact (Host.Outcome.next.inj h).symm ▸ rfl
    case drw =>
      obtain ⟨-, rfl⟩ | ⟨-, rfl⟩ := execDrw_cases h
      · rfl
      · exact absurd ht (by simp)
    all_goals exact absurd hc (by simp [Instr.code, writerCodes])
  · have hkept : t.redraw = s.redraw := same_of_not_writer h (p := .redraw) (by decide) hc
    simp [hkept, hc]

/-- The instruction a state runs is the one its fetch decodes (R123). -/
theorem runs_unique {s : State} {i j : Instr} (h : Runs s i) (h' : s.fetchDecode = .ok j) : i = j :=
  let ⟨_, _, hd⟩ := h
  Except.ok.inj (hd.symm.trans h')

/-- Settles O14: a cycle starts with `redraw` clear, and only the execute phase can set it. -/
theorem redrawTellsDrawingCycles : Obligations.RedrawTellsDrawingCycles := by
  intro s t hr h ht
  obtain ⟨hh, -⟩ | ⟨-, -, rfl⟩ | ⟨-, -, ⟨g, hg⟩, rfl⟩ | ⟨-, hp, i, u, hi, he, rfl⟩ := step_cases h
  · exact absurd (hr.symm.trans hh) Bool.false_ne_true
  · exact absurd ht (by simp)
  · refine iff_of_false Bool.false_ne_true ?_
    rintro ⟨i, ⟨-, -, hd⟩, -⟩
    exact nomatch hg.symm.trans hd
  · cases hu : u.halted with
    | true => simp [hu] at ht
    | false =>
      have hdraw : u.redraw = true ↔ i.code ∈ writerCodes .redraw :=
        (exec_redraw he hu).trans (or_iff_right Bool.false_ne_true)
      refine hdraw.trans ⟨fun hc => ⟨i, ⟨hr, hp, hi⟩, hc⟩, ?_⟩
      rintro ⟨j, hj, hc⟩
      exact runs_unique hj hi ▸ hc

/-- Settles O56. -/
theorem redrawClearChangesOnlyRedraw : Obligations.RedrawClearChangesOnlyRedraw := fun s =>
  ⟨s.clearRedraw, rfl, rfl, (leaves_setRedraw (by simp)).but⟩

end Sys2Proof.Frame

/-! O48, O51: the values at reset (spec/10_state.md R36), and the host's write of a key latch (R31). -/

namespace Sys2Proof.Frame

open Sys2Proof.Machine

theorem cell_clear (cx cy : Nat) : Screen.cell Screen.clear cx cy = false := by
  simp only [Screen.cell, Screen.row, Screen.clear, Vector.getElem?_replicate]
  split <;> simp

/-- Settles O48: nothing is listed in memory, so it reads as its reset content. -/
theorem resetValues : Obligations.ResetValues := by
  refine ⟨fun a h => initialByte_font h, fun a h => initialByte_high h, fun r => ?_, rfl, rfl, rfl, fun k => ?_, rfl, rfl,
    fun k _ => cell_clear _ _, fun k _ => ?_, rfl, rfl, rfl, rfl⟩
  · exact Vector.getElem_replicate ..
  · exact Vector.getElem_replicate ..
  · exact BitVec.getLsbD_zero

/-- What each latch holds after the host's write of one (R31). -/
theorem keyDown_writeKey (s : State) (k j : Reg) (down : Bool) :
    (s.writeKey k down).keyDown j.val = if j = k then down else s.keyDown j.val := by
  have hj : j.val < 16 := j.isLt
  by_cases h : j = k
  · subst h
    cases down <;> simp [State.keyDown, State.writeKey, hj]
  · have hv : ¬ j.val = k.val := fun e => h (Fin.ext e)
    cases down <;> simp [State.keyDown, State.writeKey, hj, hv, h]

/-- Settles O51. -/
theorem keyWriteChangesOneLatch : Obligations.KeyWriteChangesOneLatch := by
  refine fun s k down => ⟨s.writeKey k down, rfl, ?_, fun j hj => ?_, (leaves_writeKey (by simp)).but⟩
  · rw [keyDown_writeKey, if_pos rfl]
  · rw [keyDown_writeKey, if_neg hj]

end Sys2Proof.Frame

/-! O55: FX29 and a draw of five rows put the digit's bytes of FONT on the screen (spec/10_state.md R27, spec/44_display.md R201). -/

namespace Sys2Proof.Frame

open Sys2Proof.Machine

/-- The pixels the model plots are the cells under a 1 bit of the sprite (R201). -/
theorem mem_spritePixels_iff_plotted (s : State) (x0 y0 n cx cy : Nat) :
    (cx, cy) ∈ spritePixels x0 y0 0 (s.mem.readBytes s.base n) ↔ Plotted s x0 y0 n cx cy := by
  simp [mem_spritePixels, Plotted]

/-- A draw flips the cells under a 1 bit of its sprite and no other (R201). -/
theorem drawn_cell (s : State) (x y : Reg) (n : Nibble) (cx cy : Nat) :
    Screen.cell (s.drawn x y n).1 cx cy = true ↔
      ¬ (Screen.cell s.fb cx cy = true ↔ Plotted s (s.reg x).toNat (s.reg y).toNat n.toNat cx cy) := by
  have hlen : (s.mem.readBytes s.base n.toNat).length ≤ 32 := by
    rw [Memory.readBytes_length]
    omega
  rw [State.drawn, (Screen.draw_spec s.fb (s.reg x).toNat (s.reg y).toNat _ hlen).1 cx cy,
    ← mem_spritePixels_iff_plotted]
  cases Screen.cell s.fb cx cy <;> simp

/-- On a sprite of at most 8 by 32 pixels, no two pixels fall on one cell: the cell of column `c` and row `r` of the sprite is
plotted exactly when that bit is 1. -/
theorem plotted_at {s : State} {x0 y0 n c r : Nat} (hn : n ≤ 32) (hc : c < 8) (hr : r < n) :
    Plotted s x0 y0 n ((x0 + c) % 64) ((y0 + r) % 32) ↔ (s.mem.read (s.base + r)).getLsbD (7 - c) = true := by
  constructor
  · rintro ⟨row, col, hrow, hcol, hbit, hx, hy⟩
    obtain rfl : row = r := by omega
    obtain rfl : col = c := by omega
    exact hbit
  · exact fun hbit => ⟨r, c, hr, hc, hbit, rfl, rfl⟩

theorem present_fbCell (s : State) (f : Screen) {cx cy : Nat} (hx : cx < 64) :
    (s.present f).fbCell (cx + 64 * cy) = Screen.cell f cx cy :=
  State.fbCell_eq (s.present f) hx

/-- Drawn where a cell is off, a sprite in range shows its bit there (R201). -/
theorem execDrw_shows_bit {s t : State} {x y : Reg} {n : Nibble} (h : execDrw x y n s = .next t)
    (hfits : s.accessFits n.toNat = true) {c r : Nat} (hc : c < 8) (hr : r < n.toNat)
    (hoff : s.fbCell (((s.reg x).toNat + c) % 64 + 64 * (((s.reg y).toNat + r) % 32)) = false) :
    t.fbCell (((s.reg x).toNat + c) % 64 + 64 * (((s.reg y).toNat + r) % 32)) =
      (s.mem.read (s.base + r)).getLsbD (7 - c) := by
  obtain ⟨-, rfl⟩ | ⟨hno, -⟩ := execDrw_cases h
  · rw [State.fbCell_eq s (by omega)] at hoff
    rw [present_fbCell _ _ (by omega), Bool.eq_iff_iff, drawn_cell, hoff, plotted_at (by omega) hc hr]
    simp
  · exact absurd (hfits.symm.trans hno) (by simp)

theorem glyphAddress_toNat (b : Byte) : (glyphAddress b).toNat = 5 * b.toNat := by
  rw [glyphAddress, BitVec.toNat_ofNat]
  omega

/-- Settles O55: FX29 points `I` at the digit's glyph, whose five bytes memory still holds, and the draw starts on a screen that
is off, so that each cell shows its bit. -/
theorem digitGlyphComesFromFont : Obligations.DigitGlyphComesFromFont := by
  intro s t u x a b hx hfont hoff ht hu c hc r hr
  obtain rfl : s.loadIndex (glyphAddress (s.reg x)) = t := Host.Outcome.next.inj ht
  have hbase : (s.loadIndex (glyphAddress (s.reg x))).base = 5 * (s.reg x).toNat := glyphAddress_toNat (s.reg x)
  have hfits : (s.loadIndex (glyphAddress (s.reg x))).accessFits (5#4 : Nibble).toNat = true := by
    rw [State.accessFits_iff, hbase]
    exact .inr (by simp; omega)
  calc u.fbCell (((s.reg a).toNat + c) % 64 + 64 * (((s.reg b).toNat + r) % 32))
    _ = (s.mem.read ((s.loadIndex (glyphAddress (s.reg x))).base + r)).getLsbD (7 - c) :=
      execDrw_shows_bit hu hfits hc hr (hoff _ (by omega))
    _ = (initialByte (5 * (s.reg x).toNat + r)).getLsbD (7 - c) := by
      rw [hbase, hfont _ (by omega)]
      rfl
    _ = _ := by rw [initialByte_font]

end Sys2Proof.Frame

/-! O6, O37: the fetched word (spec/20_memory.md R60, R74), and the bytes in memory after a store at `I`
(spec/43_index_memory.md R183, R184). -/

namespace Sys2Proof.Frame

open Sys2Proof.Machine

/-- The fetch is big-endian (R60). -/
theorem fetchWord_toNat (s : State) :
    s.fetchWord.toNat = 256 * (s.mem.read s.pc.toNat).toNat + (s.mem.read (s.pc.toNat + 1)).toNat :=
  wordOfBytes_toNat _ _

/-- Settles O6. -/
theorem fetchIsBigEndian : Obligations.FetchIsBigEndian := by
  refine ⟨fun s => ⟨fetchWord_toNat s, rfl, rfl⟩, fun first second w hw => ?_⟩
  have hword : wordOfBytes first second = w := BitVec.eq_of_toNat_eq ((wordOfBytes_toNat first second).trans hw.symm)
  exact congrArg decode hword

section
variable {s t : State} {bs : List Byte}

/-- A store at `I` whose bytes lie in memory raises no fault (R64). -/
theorem storeAtIndex_mem_of_fits (h : s.storeAtIndex bs = .next t) (hfit : s.base + bs.length ≤ 4096) :
    t.mem = s.mem.writeBytes s.base bs := by
  obtain ⟨-, rfl⟩ | ⟨hno, -⟩ := State.storeAtIndex_cases h
  · rfl
  · have hyes : s.accessFits bs.length = true := (State.accessFits_iff s bs.length).2 (.inr (by omega))
    exact absurd (hyes.symm.trans hno) (by simp)

/-- The bytes stored stand at `I` and up (R61). -/
theorem storeAtIndex_read_inside (h : s.storeAtIndex bs = .next t) (hfit : s.base + bs.length ≤ 4096) {k : Nat}
    (hk : k < bs.length) : t.mem.read (s.base + k) = bs[k] := by
  rw [storeAtIndex_mem_of_fits h hfit, Memory.read_writeBytes_inside _ _ _ hfit hk]

/-- No other byte changes. -/
theorem storeAtIndex_read_outside (h : s.storeAtIndex bs = .next t) (hfit : s.base + bs.length ≤ 4096) {a : Nat}
    (ha : a < s.base ∨ s.base + bs.length ≤ a) : t.mem.read a = s.mem.read a := by
  rw [storeAtIndex_mem_of_fits h hfit, Memory.read_writeBytes_outside _ _ _ ha]

end

/-- Memory after an FX55 in range (R184). -/
theorem execStoreRegs_read {s t : State} {x : Reg} (hfit : s.base + x.val ≤ 0xFFF) (h : execStoreRegs x s = .next t)
    (a : Nat) : t.mem.read a = afterRegs s x a := by
  have hlen : (s.regBlock x).length = x.val + 1 := s.regBlock_length x
  by_cases hin : s.base ≤ a ∧ a ≤ s.base + x.val
  · obtain ⟨k, rfl⟩ := Nat.exists_eq_add_of_le hin.1
    have hreg : (⟨k, by omega⟩ : Reg) = Fin.ofNat 16 k := Fin.ext (Nat.mod_eq_of_lt (by omega)).symm
    rw [storeAtIndex_read_inside h (by omega) (by omega), State.regBlock_getElem, hreg, afterRegs, if_pos hin,
      Nat.add_sub_cancel_left]
  · rw [storeAtIndex_read_outside h (by omega) (by omega), afterRegs, if_neg hin]

@[simp] theorem decimalDigits_length (b : Byte) : (decimalDigits b).length = 3 := rfl

/-- Hundreds, tens, ones: each digit fits its byte (R183). -/
theorem decimalDigits_getElem_toNat (b : Byte) {k : Nat} (hk : k < (decimalDigits b).length) :
    (decimalDigits b)[k].toNat =
      if k = 0 then b.toNat / 100 else if k = 1 then b.toNat / 10 % 10 else b.toNat % 10 := by
  have hundreds : b.toNat / 100 % 2 ^ 8 = b.toNat / 100 := by omega
  have tens : b.toNat / 10 % 10 % 2 ^ 8 = b.toNat / 10 % 10 := by omega
  have ones : b.toNat % 10 % 2 ^ 8 = b.toNat % 10 := by omega
  match k, hk with
  | 0, _ => exact hundreds
  | 1, _ => exact tens
  | 2, _ => exact ones

/-- Memory after an FX33 in range (R183). -/
theorem execLdB_read {s t : State} {x : Reg} (hfit : s.base + 2 ≤ 0xFFF) (h : execLdB x s = .next t) (a : Nat) :
    (t.mem.read a).toNat = afterDigits s x a := by
  have hlen : (decimalDigits (s.reg x)).length = 3 := decimalDigits_length (s.reg x)
  by_cases hin : s.base ≤ a ∧ a ≤ s.base + 2
  · obtain ⟨k, rfl⟩ := Nat.exists_eq_add_of_le hin.1
    rw [storeAtIndex_read_inside h (by omega) (by omega), decimalDigits_getElem_toNat, afterDigits]
    obtain rfl | rfl | rfl : k = 0 ∨ k = 1 ∨ k = 2 := by omega
    all_goals simp
  · rw [storeAtIndex_read_outside h (by omega) (by omega), afterDigits, if_neg (by omega), if_neg (by omega),
      if_neg (by omega)]

/-- Settles O37: a fetch takes its two bytes from the memory the store left. -/
theorem nextFetchSeesTheStore : Obligations.NextFetchSeesTheStore := by
  refine fun s t x => ⟨fun hfit h => ?_, fun hfit h => ?_⟩
  · rw [fetchWord_toNat, execStoreRegs_read hfit h, execStoreRegs_read hfit h]
  · rw [fetchWord_toNat, execLdB_read hfit h, execLdB_read hfit h]

end Sys2Proof.Frame

/-! The digits and fields of a word (spec/30_encoding.md R91, R102): a digit as a number, a digit under a mask, and the word put
together again from its fields. -/

namespace Sys2Proof

section
variable {w : Word} {op : BitVec 4}

theorem opHigh_eq_iff : opHigh w = op ↔ w.toNat / 4096 = op.toNat := by
  rw [← BitVec.toNat_inj, opHigh_toNat]
  omega

theorem opHigh_eq_zero_iff : opHigh w = 0x0#4 ↔ w.toNat ≤ 0x0FFF := by
  rw [opHigh_eq_iff, BitVec.toNat_ofNat]
  omega

theorem fieldN_eq_iff {n : Nibble} : fieldN w = n ↔ w.toNat % 16 = n.toNat := by
  rw [← BitVec.toNat_inj, fieldN_toNat]

theorem fieldNN_eq_iff {nn : Byte} : fieldNN w = nn ↔ w.toNat % 256 = nn.toNat := by
  rw [← BitVec.toNat_inj, fieldNN_toNat]

theorem opHigh_and (w m : Word) : opHigh (w &&& m) = opHigh w &&& opHigh m := BitVec.extractLsb'_and

theorem fieldN_and (w m : Word) : fieldN (w &&& m) = fieldN w &&& fieldN m := BitVec.extractLsb'_and

theorem fieldNN_and (w m : Word) : fieldNN (w &&& m) = fieldNN w &&& fieldNN m := BitVec.extractLsb'_and

theorem encodeNNN_of_fields (hop : opHigh w = op) : op ++ fieldNNN w = w := by
  apply BitVec.eq_of_toNat_eq
  rw [← hop, encodeNNN_toNat, opHigh_toNat, fieldNNN_toNat]
  omega

theorem encodeXNN_of_fields {nn : Byte} (hop : opHigh w = op) (hnn : fieldNN w = nn) :
    encodeXNN op (fieldX w) nn = w := by
  apply BitVec.eq_of_toNat_eq
  rw [← hop, ← hnn, encodeXNN_toNat, opHigh_toNat, fieldX_val, fieldNN_toNat]
  omega

theorem encodeXYN_of_fields {n : Nibble} (hop : opHigh w = op) (hn : fieldN w = n) :
    encodeXYN op (fieldX w) (fieldY w) n = w := by
  apply BitVec.eq_of_toNat_eq
  rw [← hop, ← hn, encodeXYN_toNat, opHigh_toNat, fieldX_val, fieldY_val, fieldN_toNat]
  omega

/-- The digit that the last arm of `decode` stands for. -/
theorem eq_F_of_not_mem {n : BitVec 4} :
    n ∉ [0x0#4, 0x1#4, 0x2#4, 0x3#4, 0x4#4, 0x5#4, 0x6#4, 0x7#4, 0x8#4, 0x9#4, 0xA#4, 0xB#4, 0xC#4, 0xD#4, 0xE#4] →
      n = 0xF#4 := by
  revert n
  decide

end

end Sys2Proof

/-! O1, O2, O3: decoding and encoding are inverse to each other (spec/30_encoding.md R96, R98, R102). -/

namespace Sys2Proof

/-- Settles O2: in each format the fields of the encoded word are the digits the decoder dispatches on and the operands. -/
theorem decodeOfEncodeIsTheInstruction : Obligations.DecodeOfEncodeIsTheInstruction := by
  intro i
  cases i
  case cls | ret => decide
  case jp nnn | call nnn | ldI nnn | jpV0 nnn => simp [encode, decode, fields_encodeNNN]
  case seImm x nn | sneImm x nn | ldImm x nn | addImm x nn | rnd x nn => simp [encode, decode, fields_encodeXNN]
  case seReg x y | sneReg x y | drw x y n => simp [encode, decode, fields_encodeXYN]
  case ldReg x y | orReg x y | andReg x y | xorReg x y | addReg x y | sub x y | shr x y | subn x y | shl x y =>
    simp [encode, decode, decode8, fields_encodeXYN]
  case skp x | sknp x => simp [encode, decode, decodeE, fields_encodeXNN]
  case ldFromDT x | ldKey x | ldDT x | ldST x | addI x | ldF x | ldB x | storeRegs x | loadRegs x =>
    simp [encode, decode, decodeF, fields_encodeXNN]

section
variable {w : Word} {i : Instr}

theorem encode_of_decode0 (h : decode0 w = .ok i) : encode i = w := by
  unfold decode0 at h
  split_ifs at h with hcls hret <;> cases h
  · exact hcls.symm
  · exact hret.symm

theorem encode_of_decode8 (hop : opHigh w = 0x8#4) (h : decode8 w = .ok i) : encode i = w := by
  unfold decode8 at h
  split at h <;> cases h
  all_goals exact encodeXYN_of_fields hop ‹_›

theorem encode_of_decodeE (hop : opHigh w = 0xE#4) (h : decodeE w = .ok i) : encode i = w := by
  unfold decodeE at h
  split at h <;> cases h
  all_goals exact encodeXNN_of_fields hop ‹_›

theorem encode_of_decodeF (hop : opHigh w = 0xF#4) (h : decodeF w = .ok i) : encode i = w := by
  unfold decodeF at h
  split at h <;> cases h
  all_goals exact encodeXNN_of_fields hop ‹_›

end

/-- Settles O3: each arm of the decoder (`h_1` to `h_16` are the high nibbles 0 to F) answers the instruction of the digits it
found and of the word's other fields. -/
theorem encodeOfDecodeIsTheWord : Obligations.EncodeOfDecodeIsTheWord := by
  intro w i h
  unfold decode at h
  split at h
  case h_1 => exact encode_of_decode0 h
  case h_2 hop | h_3 hop | h_11 hop | h_12 hop => cases h; exact encodeNNN_of_fields hop
  case h_4 hop | h_5 hop | h_7 hop | h_8 hop | h_13 hop => cases h; exact encodeXNN_of_fields hop rfl
  case h_6 hop | h_10 hop =>
    split_ifs at h with hn
    cases h
    exact encodeXYN_of_fields hop hn
  case h_9 hop => exact encode_of_decode8 hop h
  case h_14 hop => cases h; exact encodeXYN_of_fields hop rfl
  case h_15 hop => exact encode_of_decodeE hop h
  case h_16 => exact encode_of_decodeF (eq_F_of_not_mem (by simp_all)) h

/-- Settles O1: ten closed words, run through the decoder. -/
theorem writtenOutWordsDecode : Obligations.WrittenOutWordsDecode := by
  unfold Obligations.WrittenOutWordsDecode
  decide

end Sys2Proof

/-! O5: the words the decoder rejects, by its sub-dispatches (spec/30_encoding.md R93, R97). -/

namespace Sys2Proof

section
variable {w : Word} {g : UnknownOpcode}

theorem decode0_eq_error_iff : decode0 w = .error g ↔ .group0 = g ∧ w ≠ 0x00E0#16 ∧ w ≠ 0x00EE#16 := by
  unfold decode0
  split_ifs with hcls hret
  · simp [hcls]
  · simp [hret]
  · simp [hcls, hret]

/-- The nine sub-codes of the 8 group leave seven (R95). -/
theorem not_subcode8_iff : ∀ n : Nibble,
    n ∉ [0x0#4, 0x1#4, 0x2#4, 0x3#4, 0x4#4, 0x5#4, 0x6#4, 0x7#4, 0xE#4] ↔ n.toNat ∈ [8, 9, 0xA, 0xB, 0xC, 0xD, 0xF] := by
  decide

theorem decode8_eq_error_iff :
    decode8 w = .error g ↔ .group8 = g ∧ w.toNat % 16 ∈ [8, 9, 0xA, 0xB, 0xC, 0xD, 0xF] := by
  rw [← fieldN_toNat, ← not_subcode8_iff]
  unfold decode8
  split <;> simp_all

theorem decodeE_eq_error_iff : decodeE w = .error g ↔ .groupE = g ∧ fieldNN w ∉ [0x9E#8, 0xA1#8] := by
  unfold decodeE
  split <;> simp_all

theorem decodeF_eq_error_iff : decodeF w = .error g ↔
    .groupF = g ∧ fieldNN w ∉ [0x07#8, 0x0A#8, 0x15#8, 0x18#8, 0x1E#8, 0x29#8, 0x33#8, 0x55#8, 0x65#8] := by
  unfold decodeF
  split <;> simp_all

/-- Only the high nibbles that sub-dispatch reject a word (R93). -/
theorem decode_eq_error_iff : decode w = .error g ↔
    (opHigh w = 0x0#4 ∧ decode0 w = .error g) ∨
    (opHigh w = 0x5#4 ∧ fieldN w ≠ 0x0#4 ∧ .group5 = g) ∨
    (opHigh w = 0x8#4 ∧ decode8 w = .error g) ∨
    (opHigh w = 0x9#4 ∧ fieldN w ≠ 0x0#4 ∧ .group9 = g) ∨
    (opHigh w = 0xE#4 ∧ decodeE w = .error g) ∨
    (opHigh w = 0xF#4 ∧ decodeF w = .error g) := by
  unfold decode
  split
  case h_6 hop | h_10 hop => split_ifs with hn <;> simp [hop, hn]
  case h_16 =>
    have hop : opHigh w = 0xF#4 := eq_F_of_not_mem (by simp_all)
    simp [hop]
  all_goals simp [*]

end

/-- Settles O5: one sub-dispatch for each group, its digits read as numbers. -/
theorem unknownOpcodeGroupsAreExact : Obligations.UnknownOpcodeGroupsAreExact := by
  intro w
  simp only [decode_eq_error_iff, decode0_eq_error_iff, decode8_eq_error_iff, decodeE_eq_error_iff, decodeF_eq_error_iff]
  refine ⟨?_, ?_, ?_, ?_, ?_, ?_⟩
  · simp [opHigh_eq_zero_iff]
  · simp [opHigh_eq_iff, fieldN_eq_iff]
  · simp [opHigh_eq_iff]
  · simp [opHigh_eq_iff, fieldN_eq_iff]
  · simp [opHigh_eq_iff, fieldNN_eq_iff]
  · simp [opHigh_eq_iff, fieldNN_eq_iff]

end Sys2Proof

/-! O4: the opcode map and the decoder (spec/30_encoding.md R93, R94, R96). A word that matches a row has the digits of the row's
pattern that the decoder looks at, and a word that decodes is the encoding of its instruction, which matches that row. -/

namespace Sys2Proof

/-- The code of the instruction a word decodes to depends only on the digits that R93 dispatches on. -/
theorem decode_code_congr {w p : Word} (hop : opHigh w = opHigh p) (h0 : opHigh p = 0x0#4 → w = p)
    (hN : opHigh p ∈ [0x5#4, 0x8#4, 0x9#4] → fieldN w = fieldN p)
    (hNN : opHigh p ∈ [0xE#4, 0xF#4] → fieldNN w = fieldNN p) :
    (decode w).map Instr.code = (decode p).map Instr.code := by
  unfold decode
  rw [hop]
  split
  case h_1 hp => rw [h0 hp]
  case h_6 hp | h_10 hp => rw [hN (by simp [hp])]; split_ifs <;> rfl
  case h_9 hp => rw [decode8, decode8, hN (by simp [hp])]; split <;> rfl
  case h_15 hp => rw [decodeE, decodeE, hNN (by simp [hp])]; split <;> rfl
  case h_16 =>
    have hp : opHigh p = 0xF#4 := eq_F_of_not_mem (by simp_all)
    rw [decodeF, decodeF, hNN (by simp [hp])]; split <;> rfl
  all_goals rfl

/-- The mask of every row covers the digits that R93 dispatches on, and the row's pattern decodes to the row's code. -/
theorem opcodeMap_covers_dispatch : ∀ r ∈ opcodeMap,
    opHigh r.mask = 0xF#4 ∧
    (opHigh r.pattern = 0x0#4 → r.mask = 0xFFFF#16) ∧
    (opHigh r.pattern ∈ [0x5#4, 0x8#4, 0x9#4] → fieldN r.mask = 0xF#4) ∧
    (opHigh r.pattern ∈ [0xE#4, 0xF#4] → fieldNN r.mask = 0xFF#8) ∧
    (decode r.pattern).map Instr.code = .ok r.code := by decide

/-- A code names one row (R100). -/
theorem row_eq_of_code_eq {r q : OpcodeRow} (hr : r ∈ opcodeMap) (hq : q ∈ opcodeMap) (h : r.code = q.code) : r = q :=
  List.inj_on_of_nodup_map (show (opcodeMap.map OpcodeRow.code).Nodup by decide) hr hq h

/-- A digit the mask keeps whole is the pattern's. -/
theorem OpcodeRow.Matches.digit_eq {r : OpcodeRow} {w : Word} {n : Nat} {digit : Word → BitVec n}
    (hand : ∀ u v, digit (u &&& v) = digit u &&& digit v) (h : r.Matches w) (hm : digit r.mask = BitVec.allOnes n) :
    digit w = digit r.pattern := by
  rw [← h, hand, hm, BitVec.and_allOnes]

theorem decode_of_matches {r : OpcodeRow} {w : Word} (hr : r ∈ opcodeMap) (h : r.Matches w) :
    ∃ i, decode w = .ok i ∧ i.code = r.code := by
  obtain ⟨hop, h0, hN, hNN, hcode⟩ := opcodeMap_covers_dispatch r hr
  have hcongr : (decode w).map Instr.code = (decode r.pattern).map Instr.code :=
    decode_code_congr (h.digit_eq opHigh_and hop) (fun hp => h.digit_eq (digit := id) (fun _ _ => rfl) (h0 hp))
      (fun hp => h.digit_eq fieldN_and (hN hp)) (fun hp => h.digit_eq fieldNN_and (hNN hp))
  rw [hcode] at hcongr
  cases hd : decode w with
  | error g => simp [hd, Except.map] at hcongr
  | ok i => exact ⟨i, rfl, by simpa [hd, Except.map] using hcongr⟩

/-- The laws of the single instructions, as one law of all. -/
theorem encode_matches_row (i : Instr) : Laws.EncodingMatchesRow.Statement i := by
  open Laws.EncodingMatchesRow in
  cases i
  exacts [cls, ret, jp _, call _, seImm _ _, sneImm _ _, seReg _ _, ldImm _ _, addImm _ _, ldReg _ _, orReg _ _,
    andReg _ _, xorReg _ _, addReg _ _, sub _ _, shr _ _, subn _ _, shl _ _, sneReg _ _, ldI _, jpV0 _, rnd _ _,
    drw _ _ _, skp _, sknp _, ldFromDT _, ldKey _, ldDT _, ldST _, addI _, ldF _, ldB _, storeRegs _, loadRegs _]

theorem matches_of_decode {w : Word} {i : Instr} (h : decode w = .ok i) :
    ∃ r ∈ opcodeMap, r.code = i.code ∧ r.Matches w := by
  rw [← encodeOfDecodeIsTheWord w i h]
  exact encode_matches_row i

/-- Settles O4: a word matches a row exactly when it decodes to the row's code, and a code names one row. -/
theorem decoderFollowsTheOpcodeMap : Obligations.DecoderFollowsTheOpcodeMap := by
  refine ⟨fun w r hr => ⟨decode_of_matches hr, ?_⟩, fun w r q hr hq hrw hqw => ?_, fun w => ⟨fun h => ?_, ?_⟩⟩
  · rintro ⟨i, hd, hcode⟩
    obtain ⟨q, hq, hqcode, hqw⟩ := matches_of_decode hd
    rwa [row_eq_of_code_eq hr hq (hcode.symm.trans hqcode.symm)]
  · obtain ⟨i, hi, hir⟩ := decode_of_matches hr hrw
    obtain ⟨j, hj, hjq⟩ := decode_of_matches hq hqw
    obtain rfl : i = j := Except.ok.inj (hi.symm.trans hj)
    exact row_eq_of_code_eq hr hq (hir.symm.trans hjq)
  · cases hd : decode w with
    | error g => exact ⟨g, rfl⟩
    | ok i =>
      obtain ⟨r, hr, -, hrw⟩ := matches_of_decode hd
      exact absurd ⟨r, hr, hrw⟩ h
  · rintro ⟨g, hg⟩ ⟨r, hr, hrw⟩
    obtain ⟨i, hi, -⟩ := decode_of_matches hr hrw
    simp [hg] at hi

end Sys2Proof

/-! What a cycle does, said once (spec/40_cycle.md R120): where it starts, what it answers from there, and that it always answers
a next state. -/

namespace Sys2Proof.Machine

/-! ### The execute phase answers a next state -/

theorem storeAtIndex_total (s : State) (bs : List Byte) : ∃ t, s.storeAtIndex bs = .next t := by
  unfold State.storeAtIndex
  split <;> exact ⟨_, rfl⟩

theorem skipIfKey_total (s : State) (x : Reg) (want : Bool) : ∃ t, s.skipIfKey x want = .next t := by
  unfold State.skipIfKey
  split <;> exact ⟨_, rfl⟩

theorem exec_total (i : Instr) (s : State) : ∃ t, exec i s = .next t := by
  cases i
  case ldB | storeRegs => exact storeAtIndex_total s _
  case skp | sknp => exact skipIfKey_total s _ _
  case ret | call | ldKey | drw | loadRegs =>
    simp only [exec, execRet, execCall, execLdKey, execDrw, execLoadRegs]
    split <;> exact ⟨_, rfl⟩
  all_goals exact ⟨_, rfl⟩

/-! ### The start and the end of a cycle -/

@[simp] theorem State.startCycle_halted (s : State) : s.startCycle.halted = s.halted := rfl
@[simp] theorem State.startCycle_reg (s : State) (r : Reg) : s.startCycle.reg r = s.reg r := rfl

theorem finish_of_running {i : Instr} {s t : State} (h : t.halted = false) : finish i s t = (t.tick, okOrStall i s) := by
  simp [finish, h]

theorem finish_of_halted {i : Instr} {s t : State} (h : t.halted = true) :
    finish i s t = (s.closeLoad.haltWith t.faultCode t.faultInfo, .fault t.faultCode t.faultInfo) := by
  simp [finish, h, State.faulted]

/-! ### The cycle from each of its starts -/

theorem cycle_halted {s : State} (h : s.halted = true) : cycle s = .next (s, .fault s.faultCode s.faultInfo) := by
  simp [cycle, h]

theorem cycle_fetchRange {s : State} (h : s.halted = false) (hp : 0xFFE < s.pc.toNat) :
    cycle s = .next (s.closeLoad.haltWith 1#3 s.pc, .fault 1#3 s.pc) := by
  simp [cycle, h, State.canFetch, Nat.not_le.2 hp, State.faulted, FaultKind.code]

theorem step_of_cycle {s t : State} {r : Status} (h : cycle s = .next (t, r)) : step s = .next t := by
  simp [step, h]

/-! ### The timers and the keys -/

theorem countDown_toNat (b : Byte) : (countDown b).toNat = b.toNat - 1 := by
  unfold countDown
  split
  · simp [*]
  · bv_omega

theorem highestKey_eq_none_iff (s : State) : s.highestKey = none ↔ ∀ k < 16, s.keyDown k = false := by
  obtain ⟨k, hk, he, hd, -⟩ | ⟨he, hup⟩ := s.scanKeys_spec 16
  · refine iff_of_false (by simp [State.highestKey, he]) fun hup => ?_
    simp [hup k hk] at hd
  · exact iff_of_true he hup

theorem waitsForKey_iff (i : Instr) : i.waitsForKey = true ↔ ∃ x, .ldKey x = i := by
  cases i <;> simp [Instr.waitsForKey]

theorem code_eq_FX0A_iff (i : Instr) : i.code = "FX0A" ↔ ∃ x, .ldKey x = i := by
  cases i <;> simp [Instr.code]

/-- An instruction that raised no fault stalls exactly when it is FX0A with no key down, and is OK otherwise (R128). -/
theorem okOrStall_cases (i : Instr) (s : State) :
    (okOrStall i s = .stall ∧ (∃ x, .ldKey x = i) ∧ ∀ k < 16, s.keyDown k = false) ∨
    (okOrStall i s = .ok ∧ ∀ x, .ldKey x = i → ∃ k < 16, s.keyDown k = true) := by
  by_cases h : i.waitsForKey = true ∧ s.highestKey = none
  · exact .inl ⟨by simp [okOrStall, h], (waitsForKey_iff i).1 h.1, (highestKey_eq_none_iff s).1 h.2⟩
  · refine .inr ⟨by simp [okOrStall, h], ?_⟩
    simpa [waitsForKey_iff, highestKey_eq_none_iff] using h

end Sys2Proof.Machine

namespace Sys2Proof.Frame

open Sys2Proof.Machine

section
variable {s t : State} {i : Instr}

/-- Where a cycle can start (R120): halted, with no word to fetch, at an unknown opcode or at an instruction. -/
theorem cycle_start_cases (s : State) :
    s.halted = true ∨ (s.halted = false ∧ 0xFFE < s.pc.toNat) ∨ MeetsUnknown s ∨ ∃ i, Runs s i := by
  cases hh : s.halted with
  | true => exact .inl rfl
  | false =>
    by_cases hp : s.pc.toNat ≤ 0xFFE
    · cases hd : s.fetchDecode with
      | error g => exact .inr (.inr (.inl ⟨hh, hp, g, hd⟩))
      | ok i => exact .inr (.inr (.inr ⟨i, hh, hp, hd⟩))
    · exact .inr (.inl ⟨rfl, by omega⟩)

theorem cycle_unknown (h : MeetsUnknown s) :
    cycle s = .next (s.startCycle.tick, .unknownOpcode s.fetchWord s.pc) := by
  obtain ⟨hh, hp, g, hd⟩ := h
  simp [cycle, hh, State.canFetch, hp, show s.fetchDecode = .error g from hd]

theorem cycle_exec (h : Runs s i) (he : exec i s.startCycle = .next t) : cycle s = .next (finish i s t) := by
  obtain ⟨hh, hp, hd⟩ := h
  simp [cycle, hh, State.canFetch, hp, show s.fetchDecode = .ok i from hd, he]

theorem Runs.running (h : Runs s i) : s.halted = false :=
  let ⟨hh, _, _⟩ := h
  hh

theorem MeetsUnknown.running (h : MeetsUnknown s) : s.halted = false :=
  let ⟨hh, _, _⟩ := h
  hh

/-- The instruction a state runs is the only one. -/
theorem Runs.iff_eq (h : Runs s i) (j : Instr) : Runs s j ↔ j = i :=
  ⟨fun hj => let ⟨_, _, hd⟩ := h; runs_unique hj hd, fun e => e ▸ h⟩

theorem Runs.not_meetsUnknown (h : Runs s i) : ¬ MeetsUnknown s := by
  obtain ⟨-, -, hd⟩ := h
  rintro ⟨-, -, g, hg⟩
  exact nomatch hd.symm.trans hg

theorem MeetsUnknown.not_runs (h : MeetsUnknown s) (i : Instr) : ¬ Runs s i := fun hi => hi.not_meetsUnknown h

/-- Everything a cycle that answers a next state and a status can have done. -/
theorem cycle_cases {r : Status} (h : cycle s = .next (t, r)) :
    (s.halted = true ∧ t = s ∧ r = .fault s.faultCode s.faultInfo) ∨
    (s.halted = false ∧ 0xFFE < s.pc.toNat ∧ t = s.closeLoad.haltWith 1#3 s.pc ∧ r = .fault 1#3 s.pc) ∨
    (MeetsUnknown s ∧ t = s.startCycle.tick ∧ r = .unknownOpcode s.fetchWord s.pc) ∨
    ∃ i u, Runs s i ∧ exec i s.startCycle = .next u ∧ (t, r) = finish i s u := by
  obtain hh | ⟨hh, hp⟩ | hm | ⟨i, hi⟩ := cycle_start_cases s
  · exact .inl ⟨hh, Prod.mk.inj (Host.Outcome.next.inj (h.symm.trans (cycle_halted hh)))⟩
  · exact .inr (.inl ⟨hh, hp, Prod.mk.inj (Host.Outcome.next.inj (h.symm.trans (cycle_fetchRange hh hp)))⟩)
  · exact .inr (.inr (.inl ⟨hm, Prod.mk.inj (Host.Outcome.next.inj (h.symm.trans (cycle_unknown hm)))⟩))
  · obtain ⟨u, hu⟩ := exec_total i s.startCycle
    exact .inr (.inr (.inr ⟨i, u, hi, hu, Host.Outcome.next.inj (h.symm.trans (cycle_exec hi hu))⟩))

end

/-! ### The frame of the pieces of a cycle -/

section
variable {regs : Reg → Prop} {parts : List Part} {s : State}

theorem leaves_closeLoad (h : .loadOpen ∈ parts) : Leaves regs parts s s.closeLoad :=
  leaves_of_kept h rfl fun p hp => by cases p <;> simp [Kept] at hp ⊢

theorem leaves_startCycle (hl : .loadOpen ∈ parts) (hr : .redraw ∈ parts) : Leaves regs parts s s.startCycle :=
  (leaves_closeLoad hl).trans (leaves_setRedraw hr)

theorem leaves_tick (hd : .dt ∈ parts) (hs : .st ∈ parts) : Leaves regs parts s s.tick :=
  (leaves_setDT hd).trans (leaves_setST hs)

end

end Sys2Proof.Frame

/-! O7, O16: a step runs the decoded instruction, and always answers a next state (spec/40_cycle.md R120, R124, R127). -/

namespace Sys2Proof.Frame

open Sys2Proof.Machine

/-- Settles O16. -/
theorem everyCycleHasANextState : Obligations.EveryCycleHasANextState := by
  refine ⟨exec_total, fun s => ?_⟩
  obtain hh | ⟨hh, hp⟩ | hm | ⟨i, hi⟩ := cycle_start_cases s
  · exact ⟨_, step_of_cycle (cycle_halted hh)⟩
  · exact ⟨_, step_of_cycle (cycle_fetchRange hh hp)⟩
  · exact ⟨_, step_of_cycle (cycle_unknown hm)⟩
  · obtain ⟨u, hu⟩ := exec_total i s.startCycle
    exact ⟨_, step_of_cycle (cycle_exec hi hu)⟩

/-- Settles O7: the state the execute phase starts from is `startCycle`, and what it left decides how the cycle ends. -/
theorem stepRunsTheDecodedInstruction : Obligations.StepRunsTheDecodedInstruction := by
  intro s t i hi he
  have hc : cycle s = .next (finish i s t) := cycle_exec hi he
  refine ⟨fun ht => ?_, fun ht => ?_⟩
  · rw [finish_of_running ht] at hc
    exact step_of_cycle hc
  · rw [finish_of_halted ht] at hc
    exact step_of_cycle hc

end Sys2Proof.Frame

/-! O10, O11: the fetch fault and the halted core (spec/40_cycle.md R122, R130). -/

namespace Sys2Proof.Frame

open Sys2Proof.Machine

/-- Settles O10. -/
theorem fetchOutsideMemoryFaults : Obligations.FetchOutsideMemoryFaults := by
  intro s hh hp
  have hc := cycle_fetchRange hh hp
  exact ⟨_, hc, step_of_cycle hc, rfl, rfl, rfl, ((leaves_closeLoad (by simp)).trans (leaves_haltWith (by simp))).but⟩

theorem core_run_halted {s : State} (h : s.halted = true) (n : Nat) : core.run n s = .next s := by
  induction n with
  | zero => rfl
  | succ n ih => rw [core_run_succ n (step_halted h), ih]

/-- Settles O11. -/
theorem haltedCoreIgnoresCycles : Obligations.HaltedCoreIgnoresCycles := fun _ h =>
  ⟨cycle_halted h, core_run_halted h⟩

end Sys2Proof.Frame

/-! O8, O9: the cycle at an unknown opcode leaves the core at it (spec/40_cycle.md R126). -/

namespace Sys2Proof.Frame

open Sys2Proof.Machine

/-- What the cycles at an unknown opcode may write (R126; `loadOpen`: log 4). -/
def unknownParts : List Part := [.redraw, .dt, .st, .loadOpen]

theorem leaves_unknown (s : State) : Leaves noReg unknownParts s s.startCycle.tick :=
  (leaves_startCycle (by simp [unknownParts]) (by simp [unknownParts])).trans
    (leaves_tick (by simp [unknownParts]) (by simp [unknownParts]))

/-- The cycle at an unknown opcode changes neither `pc` nor memory: the next one meets it again. -/
theorem MeetsUnknown.again {s : State} (h : MeetsUnknown s) : MeetsUnknown s.startCycle.tick := h

/-- Settles O8. -/
theorem unknownOpcodeCycle : Obligations.UnknownOpcodeCycle := by
  intro s h
  have hc := cycle_unknown h
  exact ⟨_, hc, step_of_cycle hc, rfl, countDown_toNat s.dt, countDown_toNat s.st, h.running, (leaves_unknown s).but⟩

/-- After `n` cycles at an unknown opcode the core meets it still, each timer `n` lower. -/
theorem core_run_unknown (n : Nat) {s : State} (h : MeetsUnknown s) :
    ∃ t, core.run n s = .next t ∧ MeetsUnknown t ∧ t.dt.toNat = s.dt.toNat - n ∧ t.st.toNat = s.st.toNat - n ∧
      Leaves noReg unknownParts s t := by
  induction n generalizing s with
  | zero => exact ⟨s, rfl, h, rfl, rfl, .refl _ _ s⟩
  | succ n ih =>
    obtain ⟨t, hrun, ht, hdt, hst, hl⟩ := ih h.again
    have hdt' : s.startCycle.tick.dt.toNat = s.dt.toNat - 1 := countDown_toNat s.dt
    have hst' : s.startCycle.tick.st.toNat = s.st.toNat - 1 := countDown_toNat s.st
    exact ⟨t, (core_run_succ n (step_of_cycle (cycle_unknown h))).trans hrun, ht, by omega, by omega,
      (leaves_unknown s).trans hl⟩

/-- Settles O9, by induction on the number of cycles. -/
theorem unknownOpcodeHangsForEver : Obligations.UnknownOpcodeHangsForEver := by
  intro s n h
  obtain ⟨t, hrun, ht, hdt, hst, hl⟩ := core_run_unknown n h
  exact ⟨t, hrun, ht, hdt, hst, hl.but⟩

end Sys2Proof.Frame

/-! O13: the timer tick (spec/40_cycle.md R127, spec/45_keys_timers.md R214, R215). -/

namespace Sys2Proof.Frame

open Sys2Proof.Machine

section
variable {i : Instr} {s t : State}

/-- FX15 alone writes `dt` (R37). -/
theorem dt_mem_writesParts_iff : .dt ∈ writesParts i ↔ ∃ x, .ldDT x = i := by
  cases i <;> simp [writesParts]

/-- FX18 alone writes `st` (R37). -/
theorem st_mem_writesParts_iff : .st ∈ writesParts i ↔ ∃ x, .ldST x = i := by
  cases i <;> simp [writesParts]

theorem exec_ldDT_dt {x : Reg} (h : exec (.ldDT x) s = .next t) : t.dt = s.reg x :=
  Host.Outcome.next.inj h ▸ rfl

theorem exec_ldST_st {x : Reg} (h : exec (.ldST x) s = .next t) : t.st = s.reg x :=
  Host.Outcome.next.inj h ▸ rfl

/-- A step of a running core that raised no fault met an unknown opcode or ran an instruction, and ticked (R127). -/
theorem step_ticks (hr : s.halted = false) (h : step s = .next t) (ht : t.halted = false) :
    (MeetsUnknown s ∧ t = s.startCycle.tick) ∨ ∃ i u, Runs s i ∧ exec i s.startCycle = .next u ∧ t = u.tick := by
  obtain ⟨hh, -⟩ | ⟨-, -, rfl⟩ | ⟨-, hp, ⟨g, hg⟩, rfl⟩ | ⟨-, hp, i, u, hi, he, rfl⟩ := step_cases h
  · exact absurd (hr.symm.trans hh) Bool.false_ne_true
  · exact absurd ht (by simp)
  · exact .inl ⟨⟨hr, hp, g, hg⟩, rfl⟩
  · cases hu : u.halted with
    | true => simp [hu] at ht
    | false => exact .inr ⟨i, u, ⟨hr, hp, hi⟩, he, rfl⟩

end

/-- Settles O13: the tick counts down what the execute phase left in the timers, and only FX15 and FX18 write them. -/
theorem timersTickEveryCycle : Obligations.TimersTickEveryCycle := by
  intro s t hr h ht
  obtain ⟨hm, rfl⟩ | ⟨i, u, hi, he, rfl⟩ := step_ticks hr h ht
  · exact ⟨fun _ => countDown_toNat s.dt, fun x hx => absurd hx (hm.not_runs _),
      fun _ => countDown_toNat s.st, fun x hx => absurd hx (hm.not_runs _)⟩
  · simp only [State.tick_dt, State.tick_st, countDown_toNat, hi.iff_eq]
    refine ⟨fun hn => ?_, ?_, fun hn => ?_, ?_⟩
    · have hdt : u.dt = s.dt := exec_kept he (p := .dt) (mt dt_mem_writesParts_iff.1 (not_exists.2 hn))
      rw [hdt]
    · rintro x rfl
      rw [exec_ldDT_dt he, State.startCycle_reg]
    · have hst : u.st = s.st := exec_kept he (p := .st) (mt st_mem_writesParts_iff.1 (not_exists.2 hn))
      rw [hst]
    · rintro x rfl
      rw [exec_ldST_st he, State.startCycle_reg]

end Sys2Proof.Frame

/-! O15: the status of a cycle (spec/40_cycle.md R128). -/

namespace Sys2Proof.Frame

open Sys2Proof.Machine

/-- FX0A raises no fault (R212). -/
theorem exec_ldKey_halted {x : Reg} {s t : State} (h : exec (.ldKey x) s = .next t) : t.halted = s.halted :=
  let ⟨hh, _, _⟩ : Kept .fault s t := exec_kept h (by simp [writesParts])
  hh

/-- Settles O15, by where the cycle starts and, where it ran an instruction, how that ended. -/
theorem statusTellsTheOutcome : Obligations.StatusTellsTheOutcome := by
  intro s t r h
  obtain ⟨hh, rfl, rfl⟩ | ⟨-, hp, rfl, rfl⟩ | ⟨hm, rfl, rfl⟩ | ⟨i, u, hi, he, hf⟩ := cycle_cases h
  · simp [Runs, MeetsUnknown, hh]
  · simp [Runs, MeetsUnknown, Nat.not_le.2 hp]
  · simp [hm, hm.not_runs, hm.running, @eq_comm _ s.fetchWord, @eq_comm _ s.pc]
  · cases hu : u.halted with
    | true =>
      rw [finish_of_halted hu] at hf
      obtain ⟨rfl, rfl⟩ := Prod.mk.inj hf
      have hkey : ∀ x, Instr.ldKey x ≠ i := by
        rintro x rfl
        simp [exec_ldKey_halted he, hi.running] at hu
      simp [hi.iff_eq, hi.not_meetsUnknown, hkey]
    | false =>
      rw [finish_of_running hu] at hf
      obtain ⟨rfl, rfl⟩ := Prod.mk.inj hf
      obtain ⟨e, ⟨x, rfl⟩, hup⟩ | ⟨e, hdown⟩ := okOrStall_cases i s
      · simpa [e, hi.iff_eq, hi.not_meetsUnknown, hu, Instr.code] using hup
      · simpa [e, hi.iff_eq, hi.not_meetsUnknown, hu, code_eq_FX0A_iff] using hdown

end Sys2Proof.Frame

/-! O17, O19, O20: RET and CALL with a slot to use and with none, and the RET that undoes a CALL (spec/41_control_flow.md R140,
R142, spec/60_exceptions.md R233, R234). -/

namespace Sys2Proof.Frame

open Sys2Proof.Machine

section
variable {regs : Reg → Prop} {parts : List Part} {s t : State} {w : Word}

theorem leaves_pop (hsp : .sp ∈ parts) (h : s.pop = some (w, t)) : Leaves regs parts s t := by
  obtain ⟨-, -, rfl⟩ := State.pop_some h
  exact leaves_of_kept hsp rfl fun p hp => by cases p <;> simp [Kept] at hp ⊢

theorem leaves_push (hsp : .sp ∈ parts) (hst : .stack ∈ parts) (h : s.push w = some t) : Leaves regs parts s t := by
  obtain ⟨-, rfl⟩ := State.push_some h
  refine ⟨fun _ _ => rfl, fun p hp => ?_⟩
  cases p
  case sp => exact absurd hsp hp
  case stack => exact absurd hst hp
  all_goals simp [Kept]

end

/-- A fault raised in the execute phase is recorded and changes nothing else (R231). -/
theorem faulted_haltWith (s : State) (code : BitVec 3) (info : Word) : Faulted code info s (s.haltWith code info) :=
  ⟨rfl, rfl, rfl, (leaves_haltWith (by simp)).but⟩

/-- With an entry in use RET pops it and goes on two bytes behind it (R140). -/
theorem exec_ret_of_pos {s : State} (h : 0 < s.sp.val) :
    exec .ret s = .next (State.jump { s with sp := ⟨s.sp.val - 1, by omega⟩ }
      (s.stack[s.sp.val - 1]'(by omega) + 2#16)) := by
  rw [exec, execRet, State.pop_eq s h]

theorem exec_ret_of_empty {s : State} (h : s.sp.val = 0) : exec .ret s = .next (s.haltWith 4#3 s.pc) := by
  rw [exec, execRet, State.pop_empty s h]
  rfl

/-- With a slot free CALL pushes its own address and jumps (R142). -/
theorem exec_call_of_lt {s : State} {nnn : Addr} (h : s.sp.val < 16) :
    exec (.call nnn) s = .next (State.jump
      { s with stack := s.stack.set s.sp.val s.pc h, sp := ⟨s.sp.val + 1, by omega⟩ } (zextAddr nnn)) := by
  rw [exec, execCall, State.push_eq s s.pc h]

theorem exec_call_of_full {s : State} {nnn : Addr} (h : s.sp.val = 16) :
    exec (.call nnn) s = .next (s.haltWith 3#3 s.pc) := by
  rw [exec, execCall, State.push_full s s.pc h]
  rfl

theorem zextAddr_toNat (nnn : Addr) : (zextAddr nnn).toNat = nnn.toNat := by
  rw [zextAddr, BitVec.toNat_setWidth]
  omega

/-- Settles O17, by whether the stack is empty. -/
theorem retReturnsPastTheCall : Obligations.RetReturnsPastTheCall := by
  refine fun s => ⟨fun h => ⟨_, exec_ret_of_pos h, rfl, rfl, ?_⟩, fun h => ⟨_, exec_ret_of_empty h, faulted_haltWith ..⟩⟩
  exact ((leaves_pop (by simp) (State.pop_eq s h)).trans (leaves_jump (by simp))).but

/-- Settles O19, by whether the stack is full. -/
theorem callPushesItsOwnAddress : Obligations.CallPushesItsOwnAddress := by
  refine fun s nnn => ⟨fun h => ⟨_, exec_call_of_lt h, rfl, ?_, zextAddr_toNat nnn, fun k hk => ?_, ?_⟩,
    fun h => ⟨_, exec_call_of_full h, faulted_haltWith ..⟩⟩
  · exact Vector.getElem_set_self h
  · exact Vector.getElem_set_ne h k.isLt hk.symm
  · exact ((leaves_push (by simp) (by simp) (State.push_eq s s.pc h)).trans (leaves_jump (by simp))).but

/-- Settles O20: the entry on top of the stack is the address the CALL pushed. -/
theorem returnUndoesCall : Obligations.ReturnUndoesCall := by
  intro s t u nnn hs ht hsp hstack
  obtain rfl := Host.Outcome.next.inj ((exec_call_of_lt hs).symm.trans ht)
  have hdepth : u.sp.val = s.sp.val + 1 := congrArg Fin.val hsp
  obtain ⟨hret, -⟩ := retReturnsPastTheCall u
  obtain ⟨w, hw, hwsp, hwpc, hbut⟩ := hret (by omega)
  have htop : u.stack[u.sp.val - 1]'(by omega) = s.pc := by simp [hstack, hdepth]
  exact ⟨w, hw, by rw [hwpc, htop], Fin.ext (by omega), hbut⟩

end Sys2Proof.Frame

/-! O18, O21, O22: the jumps and the skips (spec/41_control_flow.md R141, R143 to R147). -/

namespace Sys2Proof.Frame

open Sys2Proof.Machine

/-- An execute phase that jumps writes `pc` and nothing else. -/
theorem jumps_to {i : Instr} {s : State} {w : Word} (he : exec i s = .next (s.jump w)) {a : Nat} (hw : w.toNat = a) :
    ∃ t, exec i s = .next t ∧ t.pc.toNat = a ∧ But noReg [.pc] s t :=
  ⟨_, he, hw, (leaves_jump (by simp)).but⟩

/-- The sum of BNNN does not wrap (R147). -/
theorem zextAddr_add_zextByte_toNat (nnn : Addr) (b : Byte) :
    (zextAddr nnn + zextByte b).toNat = nnn.toNat + b.toNat := by
  rw [BitVec.toNat_add, zextAddr_toNat, zextByte, BitVec.toNat_setWidth]
  omega

/-- Settles O18. -/
theorem jumpsGoToTheirTarget : Obligations.JumpsGoToTheirTarget := fun s nnn =>
  ⟨jumps_to rfl (zextAddr_toNat nnn), jumps_to rfl (zextAddr_add_zextByte_toNat nnn (s.reg 0))⟩

/-- An execute phase that skips on `c` writes `pc` and nothing else (R23). -/
theorem skips_by {i : Instr} {s : State} {c : Bool} (he : exec i s = .next (s.skipIf c)) {w : Word}
    (hw : (if c then 4#16 else 2#16) = w) : ∃ t, exec i s = .next t ∧ t.pc = s.pc + w ∧ But noReg [.pc] s t := by
  refine ⟨_, he, ?_, (leaves_advance (by simp)).but⟩
  cases c <;> exact hw ▸ rfl

/-- The distance of a skip that wants its bytes equal. -/
theorem skip_beq (a b : Byte) : (if a == b then 4#16 else 2#16) = if a = b then 4#16 else 2#16 := by
  simp only [beq_iff_eq]

/-- The distance of a skip that wants its bytes different. -/
theorem skip_bne (a b : Byte) : (if a != b then 4#16 else 2#16) = if a = b then 2#16 else 4#16 := by
  simp only [bne_iff_ne, ne_eq, ite_not]

/-- Settles O21. -/
theorem skipsAgainstAConstant : Obligations.SkipsAgainstAConstant := fun s x nn =>
  ⟨skips_by rfl (skip_beq (s.reg x) nn), skips_by rfl (skip_bne (s.reg x) nn)⟩

/-- Settles O22. -/
theorem skipsBetweenRegisters : Obligations.SkipsBetweenRegisters := fun s x y =>
  ⟨skips_by rfl (skip_beq (s.reg x) (s.reg y)), skips_by rfl (skip_bne (s.reg x) (s.reg y))⟩

end Sys2Proof.Frame

/-! O23, O24, O30: the instructions that load one register and write no flag (spec/42_alu.md R160 to R165, R171). -/

namespace Sys2Proof.Frame

open Sys2Proof.Machine

section
variable {i : Instr} {s : State} {x : Reg} {b : Byte}

theorem leaves_load_only {parts : List Part} (h : .pc ∈ parts) : Leaves (· = x) parts s (s.load x b) :=
  leaves_load (regs := (· = x)) h rfl

/-- An execute phase that loads V[x] writes V[x] and `pc`, and nothing else: VF only when `x` names it. -/
theorem loads (he : exec i s = .next (s.load x b)) :
    ∃ t, exec i s = .next t ∧ t.reg x = b ∧ t.pc = s.pc + 2#16 ∧ But (· = x) [.pc] s t :=
  ⟨_, he, by simp, rfl, (leaves_load_only (by simp)).but⟩

theorem loads_toNat (he : exec i s = .next (s.load x b)) {n : Nat} (hb : b.toNat = n) :
    ∃ t, exec i s = .next t ∧ (t.reg x).toNat = n ∧ t.pc = s.pc + 2#16 ∧ But (· = x) [.pc] s t :=
  let ⟨t, ht, hv, hrest⟩ := loads he
  ⟨t, ht, hv ▸ hb, hrest⟩

theorem loads_bits (he : exec i s = .next (s.load x b)) {p : Nat → Bool} (hb : ∀ k, b.getLsbD k = p k) :
    ∃ t, exec i s = .next t ∧ (∀ k < 8, (t.reg x).getLsbD k = p k) ∧ t.pc = s.pc + 2#16 ∧ But (· = x) [.pc] s t :=
  let ⟨t, ht, hv, hrest⟩ := loads he
  ⟨t, ht, fun k _ => hv ▸ hb k, hrest⟩

end

/-- Settles O23. -/
theorem constantLoadAndAdd : Obligations.ConstantLoadAndAdd := fun s x nn =>
  ⟨loads rfl, loads_toNat rfl (BitVec.toNat_add (s.reg x) nn)⟩

/-- Settles O24. -/
theorem assignAndLogic : Obligations.AssignAndLogic := fun _ _ _ =>
  ⟨loads rfl, loads_bits rfl fun _ => BitVec.getLsbD_or, loads_bits rfl fun _ => BitVec.getLsbD_and,
    loads_bits rfl fun _ => BitVec.getLsbD_xor⟩

/-- Settles O30: the draw is counted and its value, whatever it is, loaded under the mask. -/
theorem randomIsMasked : Obligations.RandomIsMasked := fun s x nn => by
  refine ⟨s.countDraw.load x (Config.freeRnd s.draws &&& nn), rfl, fun k _ => ?_, rfl, rfl, ?_⟩
  · rw [State.load_reg, if_pos rfl, BitVec.getLsbD_and]
  · exact ((leaves_countDraw (by simp)).trans (leaves_load_only (by simp))).but

end Sys2Proof.Frame

/-! The values of the ALU's flags and results as numbers (spec/42_alu.md R166 to R170, R173). -/

namespace Sys2Proof.Machine

theorem flag_toNat (p : Prop) [Decidable p] : (flag (decide p)).toNat = Frame.bit p := by
  by_cases hp : p <;> simp [flag, Frame.bit, hp]

theorem carryFlag_toNat (a b : Byte) : (carryFlag a b).toNat = Frame.bit (a.toNat + b.toNat > 255) := flag_toNat _

theorem notBorrowFlag_toNat (a b : Byte) : (notBorrowFlag a b).toNat = Frame.bit (a.toNat ≥ b.toNat) := flag_toNat _

theorem lowBitFlag_toNat (a : Byte) : (lowBitFlag a).toNat = a.toNat % 2 := by
  rw [lowBitFlag, BitVec.toNat_and]
  exact Nat.and_one_is_mod _

theorem highBitFlag_toNat (a : Byte) : (highBitFlag a).toNat = a.toNat / 128 := by
  rw [highBitFlag, BitVec.toNat_ushiftRight, Nat.shiftRight_eq_div_pow]

/-- The difference of two bytes modulo 256, without going below zero. -/
theorem byte_sub_toNat (a b : Byte) : (a - b).toNat = (a.toNat + 256 - b.toNat) % 256 := by
  rw [BitVec.toNat_sub]
  omega

theorem byte_shiftRight_one_toNat (a : Byte) : (a >>> 1).toNat = a.toNat / 2 := by
  rw [BitVec.toNat_ushiftRight, Nat.shiftRight_eq_div_pow]

theorem byte_shiftLeft_one_toNat (a : Byte) : (a <<< 1).toNat = 2 * a.toNat % 256 := by
  rw [BitVec.toNat_shiftLeft, Nat.shiftLeft_eq, Nat.mul_comm]

end Sys2Proof.Machine

/-! O25 to O28: the instructions that write a flag, then a result (spec/42_alu.md R166 to R170). -/

namespace Sys2Proof.Frame

open Sys2Proof.Machine

/-- The execute phase answers a state with `n` in V[x] and, unless `x` is VF, the flag `f` in VF; `pc` is two higher, and nothing
else changed. -/
def WritesFlagAndResult (i : Instr) (s : State) (x : Reg) (f n : Nat) : Prop :=
  ∃ t, exec i s = .next t ∧ (t.reg x).toNat = n ∧ (x ≠ VF → (t.reg VF).toNat = f) ∧ t.pc = s.pc + 2#16 ∧
    But (fun r => r = x ∨ r = VF) [.pc] s t

/-- An operand of a result, as a number: VF reads the flag just written (R172). -/
def operand (s : State) (f : Nat) (r : Reg) : Nat := if r = VF then f else (s.reg r).toNat

theorem toNat_operand (s : State) (v : Byte) (r : Reg) :
    (if r = VF then v else s.reg r).toNat = operand s v.toNat r :=
  apply_ite BitVec.toNat ..

/-- The flag first, then the result of the operands as they then are (R172), in numbers: `g` is what `op` computes. -/
theorem writesFlagAndResult {i : Instr} {s : State} {x y : Reg} {v : Byte} {op : Byte → Byte → Byte}
    (g : Nat → Nat → Nat) (he : exec i s = .next (s.flagThen v op x y)) {f : Nat} (hf : v.toNat = f)
    (hop : ∀ a b, (op a b).toNat = g a.toNat b.toNat) :
    WritesFlagAndResult i s x f (g (operand s f x) (operand s f y)) := by
  refine ⟨_, he, ?_, fun hx => ?_, rfl, (leaves_flagThen (by simp) (.inl rfl) (.inr rfl)).but⟩
  · rw [State.flagThen_reg, if_pos rfl, hop, toNat_operand, toNat_operand, hf]
  · rw [State.flagThen_reg, if_neg hx.symm, if_pos rfl, hf]

/-- Settles O25. -/
theorem addRegisters : Obligations.AddRegisters := fun _ _ _ =>
  writesFlagAndResult (fun a b => (a + b) % 256) rfl (carryFlag_toNat ..) BitVec.toNat_add

/-- Settles O26. -/
theorem subtractRegisters : Obligations.SubtractRegisters := fun _ _ _ =>
  writesFlagAndResult (fun a b => (a + 256 - b) % 256) rfl (notBorrowFlag_toNat ..) byte_sub_toNat

/-- Settles O27. -/
theorem subtractReversed : Obligations.SubtractReversed := fun _ _ _ =>
  writesFlagAndResult (fun a b => (b + 256 - a) % 256) rfl (notBorrowFlag_toNat ..) fun a b => byte_sub_toNat b a

/-- Settles O28. -/
theorem shiftsByOne : Obligations.ShiftsByOne := fun _ _ _ =>
  ⟨writesFlagAndResult (fun a _ => a / 2) rfl (lowBitFlag_toNat _) fun a _ => byte_shiftRight_one_toNat a,
    writesFlagAndResult (fun a _ => 2 * a % 256) rfl (highBitFlag_toNat _) fun a _ => byte_shiftLeft_one_toNat a⟩

end Sys2Proof.Frame

/-! O29: the list of R172, read off O25 to O28 with VF as an operand. -/

namespace Sys2Proof.Frame

open Sys2Proof.Machine

section
variable {i : Instr} {s : State} {x : Reg} {f n m : Nat}

/-- With X = VF the result is what VF holds in the end. -/
theorem answers_result (h : WritesFlagAndResult i s x f n) (e : n = m) :
    ∃ t, exec i s = .next t ∧ (t.reg x).toNat = m :=
  let ⟨t, ht, hv, _⟩ := h
  ⟨t, ht, hv.trans e⟩

theorem answers_result_and_flag (h : WritesFlagAndResult i s x f n) (hx : x ≠ VF) (e : n = m) :
    ∃ t, exec i s = .next t ∧ (t.reg x).toNat = m ∧ (t.reg VF).toNat = f :=
  let ⟨t, ht, hv, hf, _⟩ := h
  ⟨t, ht, hv.trans e, hf hx⟩

end

/-- A byte and itself carry exactly when its bit 7 is set, and the sum of the two flags read back does not wrap. -/
theorem carry_double (v : Nat) : (bit (v + v > 255) + bit (v + v > 255)) % 256 = 2 * bit (v ≥ 128) := by
  unfold bit
  split <;> split <;> omega

/-- Settles O29, form by form: an operand other than VF is read as it was, VF as the flag. -/
theorem flagRegisterAsOperand : Obligations.FlagRegisterAsOperand := by
  intro s x y hx hy
  obtain ⟨hshr, hshl⟩ := shiftsByOne s VF y
  have hfit : 2 * ((s.reg VF).toNat / 128) < 256 := by omega
  exact ⟨answers_result (addRegisters s VF y) (by simp [hy]),
    answers_result_and_flag (addRegisters s x VF) hx (by simp [hx]),
    answers_result (addRegisters s VF VF) (carry_double _),
    answers_result (subtractRegisters s VF y) (by simp [hy]),
    answers_result_and_flag (subtractRegisters s x VF) hx (by simp [hx]),
    answers_result (subtractRegisters s VF VF) (by simp),
    answers_result (subtractReversed s VF y) (by simp [hy]),
    answers_result_and_flag (subtractReversed s x VF) hx (by simp [hx]),
    answers_result (subtractReversed s VF VF) (by simp),
    answers_result hshr (by simp),
    answers_result hshl (by simpa using hfit)⟩

end Sys2Proof.Frame

/-! O31, O32: the instructions that write the index register (spec/43_index_memory.md R180 to R182). -/

namespace Sys2Proof.Frame

open Sys2Proof.Machine

/-- An execute phase that loads `I` writes `I` and `pc`, and nothing else. -/
theorem loads_index {i : Instr} {s : State} {w : Word} (he : exec i s = .next (s.loadIndex w)) {n : Nat}
    (hw : w.toNat = n) :
    ∃ t, exec i s = .next t ∧ t.I.toNat = n ∧ t.pc = s.pc + 2#16 ∧ But noReg [.index, .pc] s t :=
  ⟨_, he, hw, rfl, (leaves_loadIndex (by simp) (by simp)).but⟩

/-- Settles O31. -/
theorem indexLoads : Obligations.IndexLoads := fun s nnn x =>
  ⟨loads_index rfl (zextAddr_toNat nnn), loads_index rfl ((glyphAddress_toNat (s.reg x)).trans (Nat.mul_comm ..))⟩

theorem indexFlag_toNat (w : Word) (b : Byte) : (indexFlag w b).toNat = bit (w.toNat + b.toNat > 0xFFF) := flag_toNat _

theorem add_zextByte_toNat (w : Word) (b : Byte) : (w + zextByte b).toNat = (w.toNat + b.toNat) % 65536 := by
  rw [BitVec.toNat_add, zextByte, BitVec.toNat_setWidth]
  omega

/-- Settles O32: the flag goes to VF first, so the sum reads it there when VF is the operand. -/
theorem indexAdd : Obligations.IndexAdd := by
  intro s x f a
  have hflag : (indexFlag s.I (s.reg x)).toNat = f := indexFlag_toNat ..
  have hoperand : ((s.setReg VF (indexFlag s.I (s.reg x))).reg x).toNat = a := by
    rw [State.setReg_reg, toNat_operand, hflag]
    rfl
  refine ⟨_, rfl, ?_, ?_, rfl, ?_⟩
  · exact (add_zextByte_toNat ..).trans (by rw [hoperand])
  · exact (congrArg BitVec.toNat (State.setReg_reg s VF VF _)).trans hflag
  · exact ((leaves_setReg (regs := (· = VF)) rfl).trans (leaves_loadIndex (by simp) (by simp))).but

end Sys2Proof.Frame

/-! O33 to O36: the stores at `I`, the block load, and a load after a store (spec/43_index_memory.md R183 to R186,
spec/60_exceptions.md R236). -/

namespace Sys2Proof.Frame

open Sys2Proof.Machine

section
variable {i : Instr} {s : State} {bs : List Byte} {n : Nat}

/-- The range test of R64 for a last byte `n` addresses above `I`. -/
theorem accessFits_succ_iff : s.accessFits (n + 1) = true ↔ s.base + n ≤ 0xFFF := by
  rw [State.accessFits_iff]
  omega

/-- A store at `I` within memory leaves every byte outside its block, and writes memory and `pc` only. -/
theorem stores_of_fits (he : exec i s = s.storeAtIndex bs) (hlen : bs.length = n + 1) (hfit : s.base + n ≤ 0xFFF) :
    ∃ t, exec i s = .next t ∧ (∀ a, a < s.base ∨ s.base + n < a → t.mem.read a = s.mem.read a) ∧
      t.pc = s.pc + 2#16 ∧ But noReg [.mem, .pc] s t := by
  have hok : s.storeAtIndex bs = .next ((s.setMem (s.mem.writeBytes s.base bs)).advance 2) :=
    if_pos (hlen ▸ accessFits_succ_iff.2 hfit)
  refine ⟨_, he.trans hok, fun a ha => ?_, rfl, ((leaves_setMem (by simp)).trans (leaves_advance (by simp))).but⟩
  exact storeAtIndex_read_outside hok (by omega) (by omega)

/-- A store at `I` that would pass 0xFFF raises MEM_RANGE with `I` and writes no byte (R64, R236). -/
theorem faults_of_store_overrun (he : exec i s = s.storeAtIndex bs) (hlen : bs.length = n + 1)
    (hover : 0xFFF < s.base + n) : ∃ t, exec i s = .next t ∧ Faulted 2#3 s.I s t :=
  ⟨_, he.trans (if_neg (hlen ▸ fun hfits => absurd (accessFits_succ_iff.1 hfits) (by omega))), faulted_haltWith ..⟩

end

/-- What FX33 in range leaves at `I`, `I + 1` and `I + 2` (R183). -/
theorem execLdB_read_digits {s t : State} {x : Reg} (hfit : s.base + 2 ≤ 0xFFF) (h : execLdB x s = .next t) :
    (t.mem.read s.base).toNat = (s.reg x).toNat / 100 ∧
      (t.mem.read (s.base + 1)).toNat = (s.reg x).toNat / 10 % 10 ∧
      (t.mem.read (s.base + 2)).toNat = (s.reg x).toNat % 10 := by
  simp [execLdB_read hfit h, afterDigits]

/-- What FX55 in range leaves at `I + r`, for each register of its block (R184). -/
theorem execStoreRegs_read_reg {s t : State} {x r : Reg} (hfit : s.base + x.val ≤ 0xFFF) (h : execStoreRegs x s = .next t)
    (hr : r ≤ x) : t.mem.read (s.base + r.val) = s.reg r := by
  have hle : r.val ≤ x.val := hr
  rw [execStoreRegs_read hfit h, afterRegs, if_pos (by omega), Nat.add_sub_cancel_left, Fin.ofNat_val_eq_self]

/-- Settles O33, by whether the three bytes fit. -/
theorem decimalDigitsAreStored : Obligations.DecimalDigitsAreStored := by
  refine fun s x => ⟨fun hfit => ?_, faults_of_store_overrun rfl (decimalDigits_length _)⟩
  obtain ⟨t, ht, hrest⟩ := stores_of_fits (i := .ldB x) rfl (decimalDigits_length _) hfit
  obtain ⟨hundreds, tens, ones⟩ := execLdB_read_digits hfit ht
  exact ⟨t, ht, hundreds, tens, ones, hrest⟩

/-- Settles O34, by whether the block fits. -/
theorem registerBlockIsStored : Obligations.RegisterBlockIsStored := by
  refine fun s x => ⟨fun hfit => ?_, faults_of_store_overrun rfl (s.regBlock_length x)⟩
  obtain ⟨t, ht, hrest⟩ := stores_of_fits (i := .storeRegs x) rfl (s.regBlock_length x) hfit
  exact ⟨t, ht, fun r hr => execStoreRegs_read_reg hfit ht hr, hrest⟩

/-- The block FX65 loads, register by register (R185). -/
theorem setRegBlock_readBytes {s : State} {x r : Reg} (hr : r ≤ x) :
    (setRegBlock s.V 0 (s.mem.readBytes s.base (x.val + 1)))[r.val]'r.isLt = s.mem.read (s.base + r.val) := by
  have hle : r.val ≤ x.val := hr
  rw [setRegBlock_getElem, dif_pos (by rw [Memory.readBytes_length]; omega), Memory.readBytes_getElem, Nat.sub_zero]

/-- Settles O35, by whether the block fits. -/
theorem registerBlockIsLoaded : Obligations.RegisterBlockIsLoaded := by
  refine fun s x => ⟨fun hfit => ?_, fun hover => ?_⟩
  · refine ⟨_, if_pos (accessFits_succ_iff.2 hfit), fun r hr => setRegBlock_readBytes hr, rfl, ?_⟩
    exact ((leaves_setV fun r hr => setRegBlock_above s.V (Memory.readBytes_length ..) hr).trans
      (leaves_advance (by simp))).but
  · exact ⟨_, if_neg fun hfits => absurd (accessFits_succ_iff.1 hfits) (by omega), faulted_haltWith ..⟩

/-- FX65 with `I` at `b`, run in a state with the memory of `t`, loads the bytes `t` holds from `b` on. -/
theorem loads_block_from {t u : State} {b : Nat} {x : Reg} (hI : u.base = b) (hm : u.mem = t.mem)
    (hfit : b + x.val ≤ 0xFFF) :
    ∃ w, exec (.loadRegs x) u = .next w ∧ ∀ r : Reg, r ≤ x → w.reg r = t.mem.read (b + r.val) := by
  obtain ⟨hload, -⟩ := registerBlockIsLoaded u x
  obtain ⟨w, hw, hregs, -⟩ := hload (by omega)
  exact ⟨w, hw, fun r hr => by rw [hregs r hr, hI, hm]⟩

/-- Settles O36: the load reads back, at the same addresses, the bytes the store left. -/
theorem loadAfterStoreRestores : Obligations.LoadAfterStoreRestores := by
  intro s t u x hI hm
  have hbase : u.base = s.base := congrArg BitVec.toNat hI
  constructor
  · intro hfit ht
    obtain ⟨w, hw, hregs⟩ := loads_block_from hbase hm hfit
    exact ⟨w, hw, fun r hr => (hregs r hr).trans (execStoreRegs_read_reg hfit ht hr)⟩
  · intro hfit ht
    obtain ⟨w, hw, hregs⟩ := loads_block_from (x := 2) hbase hm hfit
    obtain ⟨hundreds, tens, ones⟩ := execLdB_read_digits hfit ht
    refine ⟨w, hw, ?_, ?_, ?_⟩
    · rw [hregs 0 (by decide)]
      exact hundreds
    · rw [hregs 1 (by decide)]
      exact tens
    · rw [hregs 2 (by decide)]
      exact ones

end Sys2Proof.Frame

/-! O38, O39: the two instructions that write the framebuffer, 00E0 and DXYN in range and out of range (spec/44_display.md R200,
R201, spec/60_exceptions.md R236). -/

namespace Sys2Proof.Machine

/-- The state a DXYN in range leaves (R201). -/
def State.afterDraw (s : State) (x y : Reg) (n : Nibble) : State :=
  (s.setReg VF (collisionFlag (s.drawn x y n).2)).present (s.drawn x y n).1

section
variable {s : State} {x y : Reg} {n : Nibble}

@[simp] theorem State.afterDraw_pc : (s.afterDraw x y n).pc = s.pc + 2#16 := rfl
@[simp] theorem State.afterDraw_redraw : (s.afterDraw x y n).redraw = true := rfl
@[simp] theorem State.afterDraw_base : (s.afterDraw x y n).base = s.base := rfl
@[simp] theorem State.afterDraw_mem : (s.afterDraw x y n).mem = s.mem := rfl

/-- A draw writes no register but VF. -/
@[simp] theorem State.afterDraw_reg (r : Reg) :
    (s.afterDraw x y n).reg r = if r = VF then collisionFlag (s.drawn x y n).2 else s.reg r :=
  State.setReg_reg s VF r _

theorem exec_drw_of_fits (h : n.toNat = 0 ∨ s.base + n.toNat - 1 ≤ 0xFFF) :
    exec (.drw x y n) s = .next (s.afterDraw x y n) :=
  if_pos ((s.accessFits_iff n.toNat).2 h)

theorem exec_drw_of_overrun (h : ¬ (n.toNat = 0 ∨ s.base + n.toNat - 1 ≤ 0xFFF)) :
    exec (.drw x y n) s = .next (s.haltWith 2#3 s.I) :=
  if_neg (mt (s.accessFits_iff n.toNat).1 h)

end

theorem collisionFlag_eq_one_iff (hit : Bool) : collisionFlag hit = 1#8 ↔ hit = true := by
  cases hit <;> decide

theorem collisionFlag_eq_zero_iff (hit : Bool) : collisionFlag hit = 0#8 ↔ ¬ hit = true := by
  cases hit <;> decide

end Sys2Proof.Machine

namespace Sys2Proof.Frame

open Sys2Proof.Machine

/-- Settles O38. -/
theorem clearScreen : Obligations.ClearScreen := fun _ =>
  ⟨_, rfl, fun _ _ => cell_clear _ _, rfl, rfl, (leaves_present (by simp) (by simp) (by simp)).but⟩

section
variable {s : State} {x y : Reg} {n : Nibble}

/-- A pixel wraps to a column of the screen (R201). -/
theorem Plotted.column_lt {x0 y0 m cx cy : Nat} (h : Plotted s x0 y0 m cx cy) : cx < 64 := by
  obtain ⟨row, col, -, -, -, hx, -⟩ := h
  omega

/-- The sprite DXYN draws has a 1 bit over a cell that is on (R201). -/
def Collides (s : State) (x y : Reg) (n : Nibble) : Prop :=
  ∃ cx cy, Plotted s (s.reg x).toNat (s.reg y).toNat n.toNat cx cy ∧ s.fbCell (cx + 64 * cy) = true

theorem drawn_hit_iff : (s.drawn x y n).2 = true ↔ Collides s x y n := by
  have hlen : (s.mem.readBytes s.base n.toNat).length ≤ 32 := by
    rw [Memory.readBytes_length]
    omega
  rw [State.drawn, (Screen.draw_spec s.fb (s.reg x).toNat (s.reg y).toNat _ hlen).2, Prod.exists]
  refine exists₂_congr fun cx cy => ?_
  rw [mem_spritePixels_iff_plotted]
  exact and_congr_right fun hp => by rw [State.fbCell_eq s hp.column_lt]

theorem afterDraw_fbCell {cx cy : Nat} (hx : cx < 64) :
    (s.afterDraw x y n).fbCell (cx + 64 * cy) = true ↔
      ¬ (s.fbCell (cx + 64 * cy) = true ↔ Plotted s (s.reg x).toNat (s.reg y).toNat n.toNat cx cy) := by
  rw [State.afterDraw, present_fbCell _ _ hx, drawn_cell, State.fbCell_eq s hx]

theorem afterDraw_VF_eq_one_iff : (s.afterDraw x y n).reg VF = 1#8 ↔ Collides s x y n := by
  rw [State.afterDraw_reg, if_pos rfl, collisionFlag_eq_one_iff, drawn_hit_iff]

theorem afterDraw_VF_eq_zero_iff : (s.afterDraw x y n).reg VF = 0#8 ↔ ¬ Collides s x y n := by
  rw [State.afterDraw_reg, if_pos rfl, collisionFlag_eq_zero_iff, drawn_hit_iff]

theorem leaves_afterDraw : Leaves (· = VF) [.screen, .redraw, .pc] s (s.afterDraw x y n) :=
  (leaves_setReg (regs := (· = VF)) rfl).trans (leaves_present (by simp) (by simp) (by simp))

end

/-- Settles O39, by whether the rows fit. -/
theorem spriteIsDrawn : Obligations.SpriteIsDrawn := by
  refine fun s x y n => ⟨fun hfit => ?_, fun hn hover => ?_⟩
  · refine ⟨_, exec_drw_of_fits hfit, fun cx hx cy _ => ⟨fun hon => ?_, fun hoff => ?_⟩,
      afterDraw_VF_eq_one_iff.2, afterDraw_VF_eq_zero_iff.2, State.afterDraw_redraw, State.afterDraw_pc,
      leaves_afterDraw.but⟩
    · rw [Bool.eq_iff_iff, afterDraw_fbCell hx]
      simp [hon]
    · rw [Bool.eq_iff_iff, afterDraw_fbCell hx]
      simp [hoff]
  · exact ⟨_, exec_drw_of_overrun (by omega), faulted_haltWith ..⟩

end Sys2Proof.Frame

/-! O40, O41: the laws of DXYN (spec/44_display.md R202). -/

namespace Sys2Proof.Frame

open Sys2Proof.Machine

section
variable {s : State} {x y : Reg} {n : Nibble}

/-- A second draw of the same sprite at the same place plots the same pixels: the first one kept memory, `I` and, VF being no
coordinate, the place (R202). -/
theorem plotted_afterDraw_iff (hx : x ≠ VF) (hy : y ≠ VF) {cx cy : Nat} :
    Plotted (s.afterDraw x y n) ((s.afterDraw x y n).reg x).toNat ((s.afterDraw x y n).reg y).toNat n.toNat cx cy ↔
      Plotted s (s.reg x).toNat (s.reg y).toNat n.toNat cx cy := by
  simp [Plotted, hx, hy]

/-- A cell the sprite lies on flips twice, every other cell not at all (R202). -/
theorem afterDraw_afterDraw_fbCell (hx : x ≠ VF) (hy : y ≠ VF) (k : Nat) :
    ((s.afterDraw x y n).afterDraw x y n).fbCell k = s.fbCell k := by
  have hcol : k % 64 < 64 := Nat.mod_lt k (by decide)
  rw [← Nat.mod_add_div k 64, Bool.eq_iff_iff, afterDraw_fbCell hcol, afterDraw_fbCell hcol,
    plotted_afterDraw_iff hx hy]
  tauto

end

/-- Settles O40: the second draw is in range as the first was, plots the same pixels, and meets the screen the first left. -/
theorem drawingTwiceRestores : Obligations.DrawingTwiceRestores := by
  intro s t u x y n hx hy hfit ht hu
  obtain rfl := Host.Outcome.next.inj ((exec_drw_of_fits hfit).symm.trans ht)
  obtain rfl := Host.Outcome.next.inj ((exec_drw_of_fits (s := s.afterDraw x y n) hfit).symm.trans hu)
  refine ⟨fun k _ => afterDraw_afterDraw_fbCell hx hy k, ?_, ?_⟩
  · simp only [afterDraw_VF_eq_one_iff, Collides, plotted_afterDraw_iff hx hy]
  · rw [afterDraw_VF_eq_one_iff, afterDraw_VF_eq_zero_iff]
    exact em _

section
variable {s : State} {x y : Reg} {n : Nibble} {m : Memory}

/-- What a draw leaves on the screen depends on memory only through its rows (R202). -/
theorem drawn_setMem (h : ∀ k < n.toNat, m.read (s.base + k) = s.mem.read (s.base + k)) :
    (s.setMem m).drawn x y n = s.drawn x y n :=
  congrArg (Screen.draw s.fb (s.reg x).toNat (s.reg y).toNat) (Memory.readBytes_congr h)

theorem afterDraw_setMem (h : ∀ k < n.toNat, m.read (s.base + k) = s.mem.read (s.base + k)) :
    (s.setMem m).afterDraw x y n = (s.afterDraw x y n).setMem m := by
  rw [State.afterDraw, drawn_setMem h]
  rfl

end

/-- Settles O41, by whether the rows fit: the range test reads no memory, and the draw reads its rows only. -/
theorem drawReadsOnlyItsRows : Obligations.DrawReadsOnlyItsRows := by
  intro s t m x y n hrows ht
  by_cases hfit : n.toNat = 0 ∨ s.base + n.toNat - 1 ≤ 0xFFF
  · obtain rfl := Host.Outcome.next.inj ((exec_drw_of_fits hfit).symm.trans ht)
    exact (exec_drw_of_fits (s := s.setMem m) hfit).trans (congrArg Host.Outcome.next (afterDraw_setMem hrows))
  · obtain rfl := Host.Outcome.next.inj ((exec_drw_of_overrun hfit).symm.trans ht)
    exact exec_drw_of_overrun (s := s.setMem m) hfit

end Sys2Proof.Frame

/-! O42 to O44: the key and timer instructions (spec/45_keys_timers.md R210 to R215, spec/60_exceptions.md R237). -/

namespace Sys2Proof.Machine

/-- A `V[x]` that names a latch is skipped on (R210, R211). -/
theorem skipIfKey_of_le {s : State} {x : Reg} {want : Bool} (h : (s.reg x).toNat ≤ 15) :
    s.skipIfKey x want = .next (s.skipIf (s.keyDown (s.reg x).toNat == want)) :=
  if_neg (Nat.not_lt.2 h)

/-- A `V[x]` that names none raises KEY_RANGE (R237). -/
theorem skipIfKey_of_gt {s : State} {x : Reg} {want : Bool} (h : 15 < (s.reg x).toNat) :
    s.skipIfKey x want = .next (s.haltWith 5#3 (zextByte (s.reg x))) :=
  if_pos h

theorem highestKey_eq_some {s : State} {k : Nat} (hk : k < 16) (hdown : s.keyDown k = true)
    (habove : ∀ j < 16, k < j → s.keyDown j = false) : s.highestKey = some k := by
  obtain ⟨m, hm, hscan, hmdown, hmabove⟩ | ⟨-, hnone⟩ := s.scanKeys_spec 16
  · obtain hlt | rfl | hgt := Nat.lt_trichotomy m k
    · exact absurd (hmabove k hk hlt) (by simp [hdown])
    · exact hscan
    · exact absurd (habove m hm hgt) (by simp [hmdown])
  · exact absurd (hnone k hk) (by simp [hdown])

theorem exec_ldKey_of_some {s : State} {x : Reg} {k : Nat} (h : s.highestKey = some k) :
    exec (.ldKey x) s = .next (s.load x (BitVec.ofNat 8 k)) := by
  rw [exec, execLdKey, h]
  rfl

theorem exec_ldKey_of_none {s : State} {x : Reg} (h : s.highestKey = none) : exec (.ldKey x) s = .next s := by
  rw [exec, execLdKey, h]

end Sys2Proof.Machine

namespace Sys2Proof.Frame

open Sys2Proof.Machine

/-- The distance of a skip that wants its key down. -/
theorem skip_keyDown (down : Bool) : (if down == true then 4#16 else 2#16) = if down = true then 4#16 else 2#16 := by
  cases down <;> rfl

/-- The distance of a skip that wants its key up. -/
theorem skip_keyUp (down : Bool) : (if down == false then 4#16 else 2#16) = if down = true then 2#16 else 4#16 := by
  cases down <;> rfl

/-- Settles O42, by whether `V[x]` names a latch. -/
theorem keySkips : Obligations.KeySkips := fun s x =>
  ⟨fun hle => ⟨skips_by (i := .skp x) (skipIfKey_of_le hle) (skip_keyDown (s.keyDown (s.reg x).toNat)),
      skips_by (i := .sknp x) (skipIfKey_of_le hle) (skip_keyUp (s.keyDown (s.reg x).toNat))⟩,
    fun hgt => ⟨⟨_, skipIfKey_of_gt hgt, faulted_haltWith ..⟩, ⟨_, skipIfKey_of_gt hgt, faulted_haltWith ..⟩⟩⟩

/-- Settles O43, by what the scan finds: the highest key down, whose number fits its byte, or none. -/
theorem keyWait : Obligations.KeyWait := by
  refine fun s x => ⟨fun k hk hdown habove => ?_, fun hnone => ?_⟩
  · have hfits : (BitVec.ofNat 8 k).toNat = k := by
      rw [BitVec.toNat_ofNat]
      omega
    exact loads_toNat (exec_ldKey_of_some (highestKey_eq_some hk hdown habove)) hfits
  · exact exec_ldKey_of_none ((highestKey_eq_none_iff s).2 hnone)

/-- Settles O44. -/
theorem timerMoves : Obligations.TimerMoves := fun _ _ =>
  ⟨loads rfl,
    ⟨_, rfl, rfl, rfl, ((leaves_setDT (by simp)).trans (leaves_advance (by simp))).but⟩,
    ⟨_, rfl, rfl, rfl, ((leaves_setST (by simp)).trans (leaves_advance (by simp))).but⟩⟩

end Sys2Proof.Frame

/-! O47: the key latches reach no instruction but the three that read them (spec/45_keys_timers.md R216, spec/10_state.md R37). -/

namespace Sys2Proof.Frame

open Sys2Proof.Machine

/-- The state with its key latches replaced. -/
def withKeys (s : State) (k : BitVec 16) : State := { s with key := k }

section
variable {s t u v : State} {k : BitVec 16}

/-- An execute phase whose branch is chosen without the latches, and that carries the latches through in each branch, carries
them through. -/
theorem ite_withKeys {c : Bool}
    (h : (if c then .next u else .next v : Host.Outcome State Fault Refusal) = .next t) :
    (if c then .next (withKeys u k) else .next (withKeys v k) : Host.Outcome State Fault Refusal) =
      .next (withKeys t k) := by
  cases c <;> exact Host.Outcome.next.inj h ▸ rfl

theorem exec_ret_withKeys (h : exec .ret s = .next t) : exec .ret (withKeys s k) = .next (withKeys t k) := by
  obtain ⟨hs, rfl⟩ | ⟨hs, rfl⟩ := execRet_cases h
  · exact exec_ret_of_pos (s := withKeys s k) hs
  · exact exec_ret_of_empty (s := withKeys s k) hs

theorem exec_call_withKeys {nnn : Addr} (h : exec (.call nnn) s = .next t) :
    exec (.call nnn) (withKeys s k) = .next (withKeys t k) := by
  obtain ⟨hs, rfl⟩ | ⟨hs, rfl⟩ := execCall_cases h
  · exact exec_call_of_lt (s := withKeys s k) hs
  · exact exec_call_of_full (s := withKeys s k) hs

end

/-- Settles O47: where another instruction can fault, the stack depth or the range test of R64 decides, and neither reads the
latches. -/
theorem keysReachOnlyKeyInstructions : Obligations.KeysReachOnlyKeyInstructions := by
  intro i s t k hcode h
  cases i
  case skp | sknp | ldKey => exact absurd (by simp [Instr.code]) hcode
  case ret => exact exec_ret_withKeys h
  case call => exact exec_call_withKeys h
  case drw | ldB | storeRegs | loadRegs => exact ite_withKeys h
  all_goals exact Host.Outcome.next.inj h ▸ rfl

end Sys2Proof.Frame

/-! O12: a cycle that faults is precise (spec/60_exceptions.md R231, R232, spec/40_cycle.md R120). -/

namespace Sys2Proof.Frame

open Sys2Proof.Machine

/-- A fault recorded on the state before the cycle changes nothing else but the load port (R231, log 5). -/
theorem but_closeLoad_haltWith (s : State) (code : BitVec 3) (info : Word) :
    But noReg [.fault, .loadOpen] s (s.closeLoad.haltWith code info) :=
  ((leaves_closeLoad (by simp)).trans (leaves_haltWith (by simp))).but

/-- An instruction that raised no fault does not report one (R128). -/
theorem okOrStall_ne_fault (i : Instr) (s : State) (code : BitVec 3) (info : Word) : okOrStall i s ≠ .fault code info := by
  obtain ⟨e, -⟩ | ⟨e, -⟩ := okOrStall_cases i s <;> simp [e]

/-- A running core that reports a fault has recorded one of the five (R232) on the state before the cycle: the fetch's, or the one
its execute phase raised. -/
theorem cycle_fault {s t : State} {code : BitVec 3} {info : Word} (hr : s.halted = false)
    (h : cycle s = .next (t, .fault code info)) :
    t = s.closeLoad.haltWith code info ∧ 1 ≤ code.toNat ∧ code.toNat ≤ 5 := by
  obtain ⟨hh, -⟩ | ⟨-, -, rfl, e⟩ | ⟨-, -, e⟩ | ⟨i, u, -, he, hf⟩ := cycle_cases h
  · exact absurd (hr.symm.trans hh) Bool.false_ne_true
  · obtain ⟨rfl, rfl⟩ := Status.fault.inj e
    exact ⟨rfl, Safety.faultKind_code_bounds .fetchRange⟩
  · exact nomatch e
  · cases hu : u.halted with
    | true =>
      rw [finish_of_halted hu] at hf
      obtain ⟨rfl, e⟩ := Prod.mk.inj hf
      obtain ⟨rfl, rfl⟩ := Status.fault.inj e
      exact ⟨rfl, Safety.exec_halted_code he hr hu⟩
    | false =>
      rw [finish_of_running hu] at hf
      obtain ⟨-, e⟩ := Prod.mk.inj hf
      exact absurd e.symm (okOrStall_ne_fault i s code info)

/-- Settles O12: whichever phase faulted, the fault is recorded on the state before the cycle. -/
theorem faultingCycleIsPrecise : Obligations.FaultingCycleIsPrecise := by
  intro s t code info hr h
  obtain ⟨rfl, hlow, hhigh⟩ := cycle_fault hr h
  exact ⟨rfl, rfl, rfl, hlow, hhigh, but_closeLoad_haltWith s code info⟩

end Sys2Proof.Frame

/-! O49, O50: the host's reset and its program load (spec/70_reset_and_hazards.md R260, R266 to R268). -/

namespace Sys2Proof.Machine

/-- The state a program load leaves (R266): the image at 0x200 and up, the port closed. -/
def State.loaded (s : State) (image : List Byte) : State :=
  (s.setMem (s.mem.writeBytes Config.programEntry image)).closeLoad

/-- A load is a step exactly when the port is open and the image fits (R267, R268). -/
theorem State.load?_eq_some_iff {s t : State} {image : List Byte} :
    s.load? image = some t ↔ (s.loadOpen = true ∧ image.length ≤ 3584) ∧ s.loaded image = t := by
  simp [State.load?, State.loaded, State.setMem, State.closeLoad, Config.maxImage]

/-- There is no load through a closed port, or of an image that does not fit. -/
theorem State.load?_eq_none {s : State} {image : List Byte} (h : ¬ (s.loadOpen = true ∧ image.length ≤ 3584)) :
    s.load? image = none :=
  Option.eq_none_iff_forall_ne_some.2 fun _ ht => h (State.load?_eq_some_iff.1 ht).1

end Sys2Proof.Machine

namespace Sys2Proof.Frame

open Sys2Proof.Machine

theorem leaves_doReset (s : State) : Leaves noReg [.draws] State.reset s.doReset :=
  leaves_of_kept List.mem_cons_self rfl fun p hp => by cases p <;> simp [Kept, State.doReset] at hp ⊢

/-- Settles O49. -/
theorem resetForgetsEverything : Obligations.ResetForgetsEverything := fun s =>
  ⟨s.doReset, rfl, (leaves_doReset s).but⟩

theorem leaves_loaded (s : State) (image : List Byte) : Leaves noReg [.mem, .loadOpen] s (s.loaded image) :=
  (leaves_setMem (by simp)).trans (leaves_closeLoad (by simp))

/-- A cycle of a running core closes the load port as it starts, and nothing after that opens it (R268, log 5). -/
theorem step_closes_load {s t : State} (hr : s.halted = false) (h : step s = .next t) : t.loadOpen = false := by
  obtain ⟨hh, -⟩ | ⟨-, -, rfl⟩ | ⟨-, -, -, rfl⟩ | ⟨-, -, i, u, -, he, rfl⟩ := step_cases h
  · exact absurd (hr.symm.trans hh) Bool.false_ne_true
  · rfl
  · rfl
  · cases u.halted with
    | true => rfl
    | false => exact same_of_not_writer he (p := .loadOpen) (by decide) List.not_mem_nil

/-- Settles O50: an image that fits ends at 0xFFF or below, so that each of its bytes is stored. -/
theorem programLoad : Obligations.ProgramLoad := by
  refine fun s image => ⟨fun hopen hlen => ?_, fun hclosed => ?_, fun hlen => ?_, fun t => step_closes_load⟩
  · refine ⟨s.loaded image, State.load?_eq_some_iff.2 ⟨⟨hopen, hlen⟩, rfl⟩, fun k hk => ?_, fun a ha => ?_, rfl,
      (leaves_loaded s image).but⟩
    · exact Memory.read_writeBytes_inside s.mem 0x200 image (by omega) hk
    · exact Memory.read_writeBytes_outside s.mem 0x200 image ha
  · exact State.load?_eq_none fun ⟨hopen, _⟩ => Bool.false_ne_true (hclosed.symm.trans hopen)
  · exact State.load?_eq_none fun ⟨_, hfit⟩ => by omega

end Sys2Proof.Frame

/-! O54: the host's moves keep the invariant, as the steps do, so that it holds of every reachable state
(spec/70_reset_and_hazards.md R263, R275). -/

namespace Sys2Proof.Safety

open Sys2Proof.Machine Sys2Proof.Frame

/-- The parts of the state the invariant speaks of. -/
def invParts : List Part := [.mem, .pc, .stack, .fault, .loadOpen]

/-- What leaves these parts as they are keeps the invariant. -/
theorem inv_of_leaves {regs : Reg → Prop} {parts : List Part} {s t : State} (h : Leaves regs parts s t)
    (hparts : ∀ p ∈ invParts, p ∉ parts) (hs : Inv s) : Inv t := by
  have kept (p : Part) (hp : p ∈ invParts) : Kept p s t := h.part p (hparts p hp)
  have hmem : t.mem = s.mem := kept .mem (by decide)
  have hpc : t.pc = s.pc := kept .pc (by decide)
  have hstack : t.stack = s.stack := kept .stack (by decide)
  have hload : t.loadOpen = s.loadOpen := kept .loadOpen (by decide)
  obtain ⟨hhalted, hcode, hinfo⟩ : Kept .fault s t := kept .fault (by decide)
  exact {
    memory := by rw [hmem]; exact hs.memory
    pc := by rw [hpc]; exact hs.pc
    stack := by rw [hstack]; exact hs.stack
    noFault := by rw [hhalted, hcode, hinfo]; exact hs.noFault
    faultRecorded := by rw [hhalted, hcode]; exact hs.faultRecorded
    haltedClosed := by rw [hhalted, hload]; exact hs.haltedClosed }

theorem inv_loaded {s : State} (h : Inv s) (image : List Byte) : Inv (s.loaded image) where
  memory := Memory.writeBytes_wf h.memory _ image
  pc := h.pc
  stack := h.stack
  noFault := h.noFault
  faultRecorded := h.faultRecorded
  haltedClosed _ := rfl

/-- Every move of the host keeps the invariant; a reset restores it. -/
theorem hostStep_keeps_inv {a : HostAction} {s t : State} (hs : Inv s) (h : hostStep a s = some t) : Inv t := by
  cases a with
  | reset => exact Option.some.inj h ▸ inv_of_leaves (leaves_doReset s) (by decide) resetMeetsTheInvariant
  | load image =>
    obtain ⟨-, rfl⟩ := State.load?_eq_some_iff.1 h
    exact inv_loaded hs image
  | keyWrite k down =>
    exact Option.some.inj h ▸ inv_of_leaves (leaves_writeKey (regs := noReg) (List.mem_singleton_self _)) (by decide) hs
  | clearRedraw =>
    exact Option.some.inj h ▸ inv_of_leaves (leaves_setRedraw (regs := noReg) (List.mem_singleton_self _)) (by decide) hs

/-- Settles O54, by induction on how the state is reached. -/
theorem reachableStatesMeetTheInvariant : Obligations.ReachableStatesMeetTheInvariant := by
  intro s h
  induction h with
  | reset => exact resetMeetsTheInvariant
  | cycle _ hstep ih => exact stepKeepsTheInvariant _ _ ih hstep
  | host a _ hmove ih => exact hostStep_keeps_inv ih hmove

end Sys2Proof.Safety
